-- ==== Sys2Proof/Word.lean ====
section
/-! DEFINITION. The words of the block: what the ports and the registers carry (20_memory.md R51, R62; 10_state.md R20). -/

namespace Sys2Proof

/-- A command word (30_encoding.md R80). -/
abbrev Word := BitVec 16

/-- A luminance sample, a threshold or a payload byte (00_scope.md R6 `LUM_BITS`; 20_memory.md R51). -/
abbrev Byte := BitVec 8

/-- A dimension or a pixel counter, `DIM_BITS` = 12 (00_scope.md R6). -/
abbrev Dim := BitVec 12

/-- One line-buffer entry, a signed integer of 12 bits (10_state.md R32). -/
abbrev Entry := BitVec 12

/-- A 24-bit preview colour, red in bits 23:16, green in 15:8, blue in 7:0 (44_preview_and_packer.md R162). -/
abbrev Colour := BitVec 24

end Sys2Proof
end

