-- ==== Sys2Proof/Syntax.lean ====
section
/-! DEFINITION. The seven commands, one constructor for each row of the opcode map (30_encoding.md R81). -/

namespace Sys2Proof

/-- A command with its operands as the word carries them (30_encoding.md R80, R84). -/
inductive Instr where
  /-- SETW w: the width of the frame (40_config_commands.md R111). -/
  | setw (w : BitVec 12)
  /-- SETH h: the height of the frame (40_config_commands.md R112). -/
  | seth (h : BitVec 12)
  /-- SETT t: the threshold (40_config_commands.md R114). -/
  | sett (t : BitVec 8)
  /-- SETM mode, bg: the quantizer's mode and the preview background (40_config_commands.md R113). -/
  | setm (mode : BitVec 2) (bg : Bool)
  /-- START: begin a frame (41_frame_control.md R121). -/
  | start
  /-- PIX p: one pixel's luminance (42_quantizer.md R137). -/
  | pix (p : BitVec 8)
  /-- RST: reset (41_frame_control.md R125). -/
  | rst
deriving DecidableEq, Repr

end Sys2Proof
end

