-- ==== Sys2Proof/WellFormed.lean ====
section
/-! DEFINITION. Which terms of `Instr` are commands: the extra condition of 30_encoding.md R81. -/

namespace Sys2Proof

/-- `mode` = 3 is reserved: SETM with it is no command (30_encoding.md R81, R85; 40_config_commands.md R113). Every other
operand admits every value of its field (R84). -/
def Instr.wellFormed : Instr → Bool
  | .setw _ => true
  | .seth _ => true
  | .sett _ => true
  | .setm mode _ => mode != 3#2
  | .start => true
  | .pix _ => true
  | .rst => true

end Sys2Proof
end

