-- ==== Sys2Proof/Decode.lean ====
section
/-! DEFINITION. The decoder, total on the 65536 command words and rejecting by name, and after it the encoder
(30_encoding.md R80 to R85). Both are written from the operand formats of R80; `opcodeRows` transcribes the opcode map of
R81 a second time, as its masks and matches. -/

namespace Sys2Proof

/-- Why a word is ILLEGAL (30_encoding.md R85). The block itself does not tell the reasons apart: each raises
IllegalCommand (60_exceptions.md R184). -/
inductive Illegal where
  /-- `op` is 0x0 or 0x7 to 0xE. -/
  | reservedOpcode (op : BitVec 4)
  /-- A must-be-zero bit of the operand field is set. -/
  | mustBeZero
  /-- SETM with `mode` = 3. -/
  | reservedMode
deriving DecidableEq, Repr

/-- What a word decodes to (30_encoding.md R82). -/
inductive Decoded where
  | command (i : Instr)
  | illegal (why : Illegal)
deriving DecidableEq, Repr

/-- Bits 15:12, the opcode (30_encoding.md R80). -/
def opcodeOf (w : Word) : BitVec 4 := w.extractLsb' 12 4

/-- Bits 11:0 (30_encoding.md R84). -/
def imm12 (w : Word) : BitVec 12 := w.extractLsb' 0 12

/-- Bits 7:0 (30_encoding.md R84). -/
def imm8 (w : Word) : BitVec 8 := w.extractLsb' 0 8

/-- Bits 11:8, which formats B, M and Z leave zero (30_encoding.md R80). -/
def zeros11to8 (w : Word) : BitVec 4 := w.extractLsb' 8 4

/-- Bits 11:3, which format M leaves zero (30_encoding.md R80). -/
def zeros11to3 (w : Word) : BitVec 9 := w.extractLsb' 3 9

/-- Bits 1:0 of format M (30_encoding.md R80, R84). -/
def modeField (w : Word) : BitVec 2 := w.extractLsb' 0 2

/-- Bit 2 of format M (30_encoding.md R80, R84). -/
def bgField (w : Word) : Bool := w.getLsbD 2

/-- Format B: an 8-bit operand under four zero bits (30_encoding.md R80). -/
def decodeFormatB (w : Word) (i : BitVec 8 → Instr) : Decoded :=
  if zeros11to8 w = 0#4 then .command (i (imm8 w)) else .illegal .mustBeZero

/-- Format M: `mode` and `bg` under nine zero bits, `mode` not 3 (30_encoding.md R80, R81). -/
def decodeFormatM (w : Word) : Decoded :=
  if zeros11to3 w = 0#9 then
    if modeField w = 3#2 then .illegal .reservedMode else .command (.setm (modeField w) (bgField w))
  else .illegal .mustBeZero

/-- Format Z: twelve zero bits (30_encoding.md R80). -/
def decodeFormatZ (w : Word) (i : Instr) : Decoded :=
  if imm12 w = 0#12 then .command i else .illegal .mustBeZero

/-- The decoder: a function of the word alone (30_encoding.md R81, R82, R85). -/
def decode (w : Word) : Decoded :=
  if opcodeOf w = 0x1#4 then .command (.setw (imm12 w))
  else if opcodeOf w = 0x2#4 then .command (.seth (imm12 w))
  else if opcodeOf w = 0x3#4 then decodeFormatB w .sett
  else if opcodeOf w = 0x4#4 then decodeFormatM w
  else if opcodeOf w = 0x5#4 then decodeFormatZ w .start
  else if opcodeOf w = 0x6#4 then decodeFormatB w .pix
  else if opcodeOf w = 0xF#4 then decodeFormatZ w .rst
  else .illegal (.reservedOpcode (opcodeOf w))

/-- The instruction of a decoded word, if it is one. -/
def Decoded.instr? : Decoded → Option Instr
  | .command i => some i
  | .illegal _ => none

/-- The instruction the decoder reads from an opcode-table row's bits. A command is one 16-bit word that is never split
into bytes (30_encoding.md R80; 20_memory.md R61), so the table's numbering of the bits is the word's own. -/
def decodeTableWord (nbits w : Nat) : Option Instr :=
  (decode (BitVec.ofNat 16 (w % 2 ^ nbits))).instr?

/-- The word of an instruction (30_encoding.md R80, R81). A SETM with `mode` = 3, which is not well formed, gets the
ILLEGAL word that carries its fields. -/
def encode : Instr → Word
  | .setw w => 0x1#4 ++ w
  | .seth h => 0x2#4 ++ h
  | .sett t => 0x3#4 ++ 0#4 ++ t
  | .setm mode bg => 0x4#4 ++ 0#9 ++ BitVec.ofBool bg ++ mode
  | .start => 0x5#4 ++ 0#12
  | .pix p => 0x6#4 ++ 0#4 ++ p
  | .rst => 0xF#4 ++ 0#12

/-- One row of the opcode map: a word belongs to it iff `w AND mask = pattern` and the extra condition holds
(30_encoding.md R81). -/
structure OpcodeRow where
  mnemonic : String
  pattern : Word
  mask : Word
  modeNotThree : Bool := false
deriving DecidableEq, Repr

/-- The opcode map of 30_encoding.md R81, in its order. -/
def opcodeRows : List OpcodeRow :=
  [ { mnemonic := "SETW", pattern := 0x1000#16, mask := 0xF000#16 },
    { mnemonic := "SETH", pattern := 0x2000#16, mask := 0xF000#16 },
    { mnemonic := "SETT", pattern := 0x3000#16, mask := 0xFF00#16 },
    { mnemonic := "SETM", pattern := 0x4000#16, mask := 0xFFF8#16, modeNotThree := true },
    { mnemonic := "START", pattern := 0x5000#16, mask := 0xFFFF#16 },
    { mnemonic := "PIX", pattern := 0x6000#16, mask := 0xFF00#16 },
    { mnemonic := "RST", pattern := 0xF000#16, mask := 0xFFFF#16 } ]

/-- Whether a word belongs to a row (30_encoding.md R81). -/
def OpcodeRow.holds (r : OpcodeRow) (w : Word) : Bool :=
  w &&& r.mask == r.pattern && (!r.modeNotThree || w &&& 3#16 != 3#16)

/-- The mnemonic of an instruction (30_encoding.md R81). -/
def mnemonicOf : Instr → String
  | .setw _ => "SETW"
  | .seth _ => "SETH"
  | .sett _ => "SETT"
  | .setm _ _ => "SETM"
  | .start => "START"
  | .pix _ => "PIX"
  | .rst => "RST"

end Sys2Proof
end

