-- ==== Sys2Proof/Config.lean ====
section
/-! DEFINITION. What an implementation of the block fixes (00_scope.md R6, 92_eei_decisions.md "Parameters left OPEN") and
the values the spec leaves free. -/

namespace Sys2Proof

/-- The ORDERED threshold map, `ORD_N` rows of `ORD_N` entries, row index first (00_scope.md R6; 42_quantizer.md R133). -/
structure OrdMap where
  /-- `ORD_N`. -/
  side : Nat
  pos : 0 < side
  /-- `ORD_TMAP`. -/
  rows : Vector (Vector Byte side) side
deriving DecidableEq, Repr

/-- Which error diffusion MODE 1 runs, the parameter `DIFFUSION` (43_error_diffusion.md R150;
93_implementation_defined.md U3). -/
inductive Diffusion where
  /-- The algorithm the spec decides on (43_error_diffusion.md R141, R145). -/
  | floydSteinberg
  /-- Some other algorithm that the document's "or equivalent" admits: `Config.otherDiffusion k`. -/
  | other (k : Nat)
deriving DecidableEq, Repr

/-- The parameters of 00_scope.md R6 that have no single value: arguments of the model, constant while it runs. -/
structure Params where
  /-- `W_MAX`, the largest WIDTH the line buffer supports. -/
  wMax : Nat
  /-- `ORD_N` and `ORD_TMAP`. -/
  ordMap : OrdMap
  /-- `DIFFUSION`. -/
  diffusion : Diffusion
deriving DecidableEq, Repr

/-- The ranges the spec gives the parameters: 1 ≤ `W_MAX` ≤ 4095 and map entries 1 to 255 (00_scope.md R6). -/
def Params.wf (p : Params) : Bool :=
  decide (1 ≤ p.wMax) && decide (p.wMax ≤ 4095) && p.ordMap.rows.toList.all (fun row => row.toList.all (fun e => e != 0#8))

/-- What another diffusion algorithm may read at a PIX: the carries, the line buffer (entries 0 to `W_MAX`), X, WIDTH and
the luminance, and nothing else; THRESH is not among them (43_error_diffusion.md R150, R140 (c)). -/
structure DiffusionInput where
  c7 : BitVec 11
  c51 : BitVec 11
  c1 : BitVec 9
  lb : List Entry
  x : Dim
  width : Dim
  lum : Byte
deriving DecidableEq, Repr

/-- What it answers: the monochrome bit, the new carries and the line-buffer entries it writes
(43_error_diffusion.md R150). -/
structure DiffusionOutput where
  m : Bool
  c7 : BitVec 11
  c51 : BitVec 11
  c1 : BitVec 9
  writes : List (Nat × Entry)
deriving DecidableEq, Repr, Inhabited

/-- FREE VALUE. The entry `i` of the line buffer as the reset number `n` leaves it: unspecified, any value
(10_state.md R33; 93_implementation_defined.md U1). -/
opaque Config.lbAfterReset : Nat → Nat → Entry

/-- FREE VALUE. The other diffusion algorithms, one for each `k` (43_error_diffusion.md R150). -/
opaque Config.otherDiffusion : Nat → DiffusionInput → DiffusionOutput

end Sys2Proof
end

