-- ==== Sys2Proof/Machine/Defaults.lean ====
section
/-! DEFINITION. The default values of the open parameters (00_scope.md R6; 42_quantizer.md R134). -/

namespace Sys2Proof.Machine

/-- The default threshold map: `16 × B4[i][j] + 8` for the 4×4 Bayer index matrix `B4`, as the table of 42_quantizer.md
R134 writes it out (93_implementation_defined.md G3). -/
def defaultOrdMap : OrdMap :=
  { side := 4
    pos := by decide
    rows := #v[#v[8#8, 136#8, 40#8, 168#8], #v[200#8, 72#8, 232#8, 104#8],
               #v[56#8, 184#8, 24#8, 152#8], #v[248#8, 120#8, 216#8, 88#8]] }

/-- Every parameter at its default (00_scope.md R6; 92_eei_decisions.md D4, D7, D8). -/
def defaultParams : Params :=
  { wMax := 4095, ordMap := defaultOrdMap, diffusion := .floydSteinberg }

end Sys2Proof.Machine
end

