-- ==== Sys2Proof/Machine/State.lean ====
section
/-! DEFINITION. The state of the block as plain data, the reasons a step of the model can stop, and the state after reset
(10_state.md R20; 70_reset_and_hazards.md R210). -/

namespace Sys2Proof.Machine

/-- The phase PH; the code 3 is never held (10_state.md R26). -/
inductive Phase where
  | idle
  | run
  | err
deriving DecidableEq, Repr

/-- The quantizer's mode, CTRL bits 1:0; the code 3 is never held (10_state.md R24). -/
inductive Mode where
  /-- 0, the document's `dither = false`. -/
  | threshold
  /-- 1, the document's `dither = true`. -/
  | diffuse
  /-- 2, the spec's extension. -/
  | ordered
deriving DecidableEq, Repr

/-- The three faults of the block (60_exceptions.md R180). Each is taken: it leads to a next state in phase ERR. -/
inductive Cause where
  /-- Code 1, raised by START (60_exceptions.md R181). -/
  | invalidGeometry
  /-- Code 2, raised by a command out of phase (60_exceptions.md R182). -/
  | encodingError
  /-- Code 3, raised by an ILLEGAL word (60_exceptions.md R184). -/
  | illegalCommand
deriving DecidableEq, Repr

/-- What an unlisted line-buffer entry holds: 0 since the last START, an unspecified value since the reset number `n`
(41_frame_control.md R122; 10_state.md R33). -/
inductive LbFill where
  | zero
  | unspecified (n : Nat)
deriving DecidableEq, Repr

/-- The line buffer LB (10_state.md R32): the entries that differ from `fill`, indices strictly rising. -/
structure LineBuffer where
  cells : List (Nat × Entry)
  fill : LbFill
deriving DecidableEq, Repr

/-- A record of the pixel port: the monochrome bit (true is on) and the preview colour (20_memory.md R51;
30_encoding.md R88). -/
structure PixelRecord where
  m : Bool
  rgb : Colour
deriving DecidableEq, Repr

/-- What the host can do to the block between two steps: present a command word, or assert RESET (20_memory.md R51;
70_reset_and_hazards.md R210). -/
inductive HostEvent where
  | command (w : Word)
  | resetPin
deriving DecidableEq, Repr

/-- The machine. The first group is the block's whole state (10_state.md R20); the second is the model's own: its
arguments, its ports as lists, and the counter of its free values. -/
structure State where
  /-- WIDTH (10_state.md R21). -/
  width : Dim
  /-- HEIGHT (10_state.md R22). -/
  height : Dim
  /-- THRESH (10_state.md R23). -/
  thresh : Byte
  /-- MODE, CTRL bits 1:0 (10_state.md R24). -/
  mode : Mode
  /-- BG, CTRL bit 2 (10_state.md R24). -/
  bg : Bool
  /-- PH (10_state.md R26). -/
  ph : Phase
  /-- X, the column of the next pixel (10_state.md R27). -/
  x : Dim
  /-- Y, the row of the next pixel (10_state.md R27). -/
  y : Dim
  /-- DONE (10_state.md R28). -/
  done : Bool
  /-- ERRCODE; `none` is code 0 (10_state.md R29). -/
  errcode : Option Cause
  /-- C7, signed (10_state.md R30). -/
  c7 : BitVec 11
  /-- C51, signed (10_state.md R30). -/
  c51 : BitVec 11
  /-- C1, signed (10_state.md R30). -/
  c1 : BitVec 9
  /-- LB (10_state.md R32). -/
  lb : LineBuffer
  /-- SR, the payload byte under construction (10_state.md R31). -/
  sr : Byte
  /-- BC, the number of pixels placed in SR (10_state.md R31). -/
  bc : BitVec 3
  /-- The arguments of the model (00_scope.md R6); no step changes them. -/
  params : Params
  /-- What the host has presented and the block has not taken, oldest first (20_memory.md R50 (1)). -/
  input : List HostEvent
  /-- The byte stream, oldest first (20_memory.md R50 (3), R64). -/
  bytes : List Byte
  /-- The pixel stream, oldest first (20_memory.md R50 (4), R64). -/
  pixels : List PixelRecord
  /-- How many resets there have been: the number of the next free line buffer (10_state.md R33). -/
  resets : Nat
deriving DecidableEq, Repr

/-- The reasons the MODEL stops. The block's own faults are `Cause`, and are taken. -/
inductive Fault where
  /-- Raised by a PIX in MODE 1 whose X + 1 is above `W_MAX`: an access to a line-buffer entry that does not exist
  (10_state.md R32). The block never generates one (20_memory.md R52), and no state that satisfies the invariant of
  10_state.md R35 reaches it. Safe: the model stops where the spec describes no behaviour. -/
  | lineBufferIndex
deriving DecidableEq, Repr

/-- The reasons the model refuses an instruction. -/
inductive Refusal where
  /-- Raised by `exec` for an instruction without a meaning; every instruction has one, so no arm raises it. Safe. -/
  | notModelled (mnemonic : String)
deriving DecidableEq, Repr

/-- The machine right after reset: every register at the value of 10_state.md R20, LB unspecified (R33), the parameters
at their defaults (00_scope.md R6), nothing presented and nothing emitted. -/
def State.reset : State where
  width := 0#12
  height := 0#12
  thresh := 128#8
  mode := .threshold
  bg := false
  ph := .idle
  x := 0#12
  y := 0#12
  done := false
  errcode := none
  c7 := 0#11
  c51 := 0#11
  c1 := 0#9
  lb := { cells := [], fill := .unspecified 0 }
  sr := 0#8
  bc := 0#3
  params := defaultParams
  input := []
  bytes := []
  pixels := []
  resets := 1

end Sys2Proof.Machine
end

