-- ==== Sys2Proof/Machine/Ops.lean ====
section
/-! DEFINITION. The shared operations: integer functions, the line buffer, the ports, taking a fault and leaving it, and
the per-frame initialisation. -/

namespace Sys2Proof.Machine

/-- What one step answers. -/
abbrev StepResult := Host.Outcome State Fault Refusal

/-! ### Integers (00_scope.md section 7.1) -/

/-- Division of a signed integer by 16, truncating toward zero (00_scope.md section 7.1; 43_error_diffusion.md R147). -/
def tdiv16 (v : Int) : Int := if 0 ≤ v then v / 16 else -((-v) / 16)

/-- Saturation to 0..255 (00_scope.md section 7.1). -/
def clip8 (v : Int) : Int := if v < 0 then 0 else if 255 < v then 255 else v

/-! ### The line buffer (10_state.md R32, R33; 20_memory.md R52) -/

/-- What an entry that `cells` does not list holds. -/
def LbFill.value : LbFill → Nat → Entry
  | .zero, _ => 0#12
  | .unspecified n, i => Config.lbAfterReset n i

/-- The entry listed for an index. -/
def findCell : List (Nat × Entry) → Nat → Option Entry
  | [], _ => none
  | (j, v) :: rest, i => if i = j then some v else findCell rest i

/-- List an entry, in its place. -/
def putCell : List (Nat × Entry) → Nat → Entry → List (Nat × Entry)
  | [], i, v => [(i, v)]
  | (j, u) :: rest, i, v =>
    if i < j then (i, v) :: (j, u) :: rest
    else if i = j then (i, v) :: rest
    else (j, u) :: putCell rest i v

/-- Unlist an entry. -/
def dropCell : List (Nat × Entry) → Nat → List (Nat × Entry)
  | [], _ => []
  | (j, u) :: rest, i => if i = j then rest else (j, u) :: dropCell rest i

/-- `LB[i]` (00_scope.md section 7.2). -/
def LineBuffer.read (lb : LineBuffer) (i : Nat) : Entry := (findCell lb.cells i).getD (lb.fill.value i)

/-- `LB[i] <- v` (00_scope.md section 7.2); an entry that `fill` already gives is not listed. -/
def LineBuffer.write (lb : LineBuffer) (i : Nat) (v : Entry) : LineBuffer :=
  if v = lb.fill.value i then { lb with cells := dropCell lb.cells i } else { lb with cells := putCell lb.cells i v }

/-- The canonical form: indices strictly rising, no entry listed that `fill` already gives. -/
def LineBuffer.wf (lb : LineBuffer) : Bool :=
  decide ((lb.cells.map Prod.fst).Pairwise (· < ·)) && lb.cells.all (fun c => c.2 != lb.fill.value c.1)

/-- Every entry 0, what START leaves (41_frame_control.md R122). -/
def LineBuffer.zero : LineBuffer := { cells := [], fill := .zero }

/-- Every entry unspecified, what the reset number `n` leaves (10_state.md R33). -/
def LineBuffer.unspecified (n : Nat) : LineBuffer := { cells := [], fill := .unspecified n }

/-- Entries 0 to `wMax`, in order. -/
def LineBuffer.contents (lb : LineBuffer) (wMax : Nat) : List Entry := (List.range (wMax + 1)).map lb.read

/-- Several writes in order; an index above `wMax` is no entry of the buffer (10_state.md R32). -/
def LineBuffer.writeAll (lb : LineBuffer) (wMax : Nat) : List (Nat × Entry) → LineBuffer
  | [] => lb
  | (i, v) :: rest => if i ≤ wMax then (lb.write i v).writeAll wMax rest else lb.writeAll wMax rest

/-! ### The ports (20_memory.md R50, R51) -/

/-- `emit_byte` (00_scope.md section 7.2; 20_memory.md R64). -/
def emitByte (b : Byte) (s : State) : State := { s with bytes := s.bytes ++ [b] }

/-- `emit_pixel` (00_scope.md section 7.2; 44_preview_and_packer.md R160). -/
def emitPixel (r : PixelRecord) (s : State) : State := { s with pixels := s.pixels ++ [r] }

/-- Take the next event of the host, if there is one: each is taken once, in order (20_memory.md R50 (1), R65). -/
def fetch (s : State) : Option (HostEvent × State) :=
  match s.input with
  | [] => none
  | e :: rest => some (e, { s with input := rest })

/-- Present a command word as the next one the block takes. -/
def present (w : Word) (s : State) : State := { s with input := .command w :: s.input }

/-! ### Faults and reset -/

/-- TAKING A FAULT, `raise E`: ERRCODE takes the code, PH becomes ERR, and nothing else of the step happens
(60_exceptions.md R186). -/
def raise (e : Cause) (s : State) : State := { s with errcode := some e, ph := .err }

/-- `reset_all`, THE RETURN FROM A FAULT and the only one (60_exceptions.md R192): every register at its reset value, LB
unspecified, nothing emitted (41_frame_control.md R125; 70_reset_and_hazards.md R210, R211). -/
def resetAll (s : State) : State :=
  { s with
    width := 0#12, height := 0#12, thresh := 128#8, mode := .threshold, bg := false,
    ph := .idle, x := 0#12, y := 0#12, done := false, errcode := none,
    c7 := 0#11, c51 := 0#11, c1 := 0#9, sr := 0#8, bc := 0#3,
    lb := LineBuffer.unspecified s.resets, resets := s.resets + 1 }

/-- An ILLEGAL word: IllegalCommand in IDLE and RUN, ignored in ERR (60_exceptions.md R184, R191;
41_frame_control.md R120 steps 2 and 3). -/
def illegalCommand (s : State) : State :=
  match s.ph with
  | .err => s
  | .idle => raise .illegalCommand s
  | .run => raise .illegalCommand s

/-- A command that is legal in IDLE only: ignored in ERR, EncodingError in RUN, `act` in IDLE
(41_frame_control.md R120 steps 2, 4 and 5). -/
def inIdle (act : State → StepResult) (s : State) : StepResult :=
  match s.ph with
  | .err => .next s
  | .run => .next (raise .encodingError s)
  | .idle => act s

/-- A command that is legal in RUN only: ignored in ERR, EncodingError in IDLE, `act` in RUN
(41_frame_control.md R120 steps 2, 4 and 5). -/
def inRun (act : State → StepResult) (s : State) : StepResult :=
  match s.ph with
  | .err => .next s
  | .idle => .next (raise .encodingError s)
  | .run => act s

/-- `init_frame` (41_frame_control.md R122). -/
def initFrame (s : State) : State :=
  { s with
    x := 0#12, y := 0#12, done := false, c7 := 0#11, c51 := 0#11, c1 := 0#9, sr := 0#8, bc := 0#3,
    lb := LineBuffer.zero }

end Sys2Proof.Machine
end

