-- ==== Sys2Proof/Machine/Operands.lean ====
section
/-! DEFINITION. What the operands of the commands stand for (30_encoding.md R84). Every immediate is the unsigned field
itself; the one operand with a meaning of its own is SETM's `mode`. -/

namespace Sys2Proof.Machine

/-- The mode of a `mode` field; 3 is reserved (10_state.md R24; 40_config_commands.md R113). -/
def modeOfField (f : BitVec 2) : Option Mode :=
  if f = 0#2 then some .threshold
  else if f = 1#2 then some .diffuse
  else if f = 2#2 then some .ordered
  else none

/-- The 2-bit code of a mode (10_state.md R24). -/
def modeCode : Mode → BitVec 2
  | .threshold => 0#2
  | .diffuse => 1#2
  | .ordered => 2#2

end Sys2Proof.Machine
end

