-- ==== Sys2Proof/Machine/Flags.lean ====
section
/-! DEFINITION. The conditions the sequencer tests, the status pins and CTRL. The block has no arithmetic condition codes
(10_state.md section 4). -/

namespace Sys2Proof.Machine

/-- `X = WIDTH - 1`: the pixel is the last of its row (42_quantizer.md R137). -/
def lastOfRow (s : State) : Bool := s.x.toNat + 1 == s.width.toNat

/-- `Y + 1 = HEIGHT`: the row is the last of the frame (42_quantizer.md R137). -/
def lastRow (s : State) : Bool := s.y.toNat + 1 == s.height.toNat

/-- `WIDTH = 0 or HEIGHT = 0 or WIDTH > W_MAX` (41_frame_control.md R121; 60_exceptions.md R181). -/
def geometryBad (s : State) : Bool :=
  s.width == 0#12 || s.height == 0#12 || decide (s.params.wMax < s.width.toNat)

/-- The 2-bit code of PH (10_state.md R20, R26). -/
def phaseCode : Phase → BitVec 2
  | .idle => 0#2
  | .run => 1#2
  | .err => 2#2

/-- The 2-bit code of ERRCODE (10_state.md R29; 60_exceptions.md R180). -/
def errCode : Option Cause → BitVec 2
  | none => 0#2
  | some .invalidGeometry => 1#2
  | some .encodingError => 2#2
  | some .illegalCommand => 3#2

/-- The five status pins: PH in bits 1:0, DONE in bit 2, ERRCODE in bits 4:3 (10_state.md R25). -/
def statusPins (s : State) : BitVec 5 := errCode s.errcode ++ BitVec.ofBool s.done ++ phaseCode s.ph

/-- CTRL: MODE in bits 1:0, BG in bit 2 (10_state.md R24). -/
def ctrl (s : State) : BitVec 3 := BitVec.ofBool s.bg ++ modeCode s.mode

/-- A record of the pixel port as 25 bits: `m` in bit 24, the colour in bits 23:0 (30_encoding.md R88). -/
def PixelRecord.word (r : PixelRecord) : BitVec 25 := BitVec.ofBool r.m ++ r.rgb

end Sys2Proof.Machine
end

