-- ==== Sys2Proof/Machine/Quantizer.lean ====
section
/-! DEFINITION. The three quantizers and their dispatch (42_quantizer.md R130 to R136; 43_error_diffusion.md R141, R145,
R150). -/

namespace Sys2Proof.Machine

/-- The comparator of MODE 0 and MODE 2, `lum ≥ thr`, unsigned (42_quantizer.md R130, R133, R135). -/
def thresholdBit (thr lum : Byte) : Bool := decide (thr.toNat ≤ lum.toNat)

/-- `ORD_TMAP[Y mod ORD_N][X mod ORD_N]` (42_quantizer.md R133). -/
def ordThreshold (map : OrdMap) (x y : Nat) : Byte :=
  (map.rows[y % map.side]'(Nat.mod_lt y map.pos))[x % map.side]'(Nat.mod_lt x map.pos)

/-! ### DIFFUSE, the decided algorithm (43_error_diffusion.md R141) -/

/-- `CUTOFF`, the decision level (00_scope.md R6). -/
def cutoff : Int := 128

/-- `v`: the incoming error, scaled by 16. -/
def incomingError (s : State) : Int := s.c7.toInt + (s.lb.read (s.x.toNat + 1)).toInt

/-- `l`: the luminance corrected by an incoming error `v`. -/
def correctedLum (lum : Byte) (v : Int) : Int := clip8 (lum.toNat + tdiv16 v)

/-- `m`: on iff the corrected luminance is above the cutoff, strictly. -/
def diffuseBit (l : Int) : Bool := decide (cutoff < l)

/-- `e = l - 255 × m`: the quantization error. -/
def quantError (l : Int) : Int := if diffuseBit l then l - 255 else l

/-- The writes of R141 for an error `e`: the completed total of column X - 1 of the next row, and the new carries. -/
def passError (e : Int) (s : State) : State :=
  { s with
    lb := s.lb.write s.x.toNat (BitVec.ofInt 12 (3 * e + s.c51.toInt)),
    c51 := BitVec.ofInt 11 (5 * e + s.c1.toInt),
    c1 := BitVec.ofInt 9 e,
    c7 := BitVec.ofInt 11 (7 * e) }

/-- The MODE 1 pixel rule (43_error_diffusion.md R141). -/
def quantizeFloydSteinberg (lum : Byte) (s : State) : Bool × State :=
  let l := correctedLum lum (incomingError s)
  (diffuseBit l, passError (quantError l) s)

/-! ### DIFFUSE, any other algorithm (43_error_diffusion.md R150) -/

/-- What the state offers another algorithm. -/
def diffusionInput (lum : Byte) (s : State) : DiffusionInput :=
  { c7 := s.c7, c51 := s.c51, c1 := s.c1, lb := s.lb.contents s.params.wMax, x := s.x, width := s.width, lum := lum }

/-- Store what another algorithm answers. -/
def applyDiffusion (o : DiffusionOutput) (s : State) : State :=
  { s with c7 := o.c7, c51 := o.c51, c1 := o.c1, lb := s.lb.writeAll s.params.wMax o.writes }

/-- The pixel rule of the algorithm `k`: a function of the carries, the line buffer, X, WIDTH and the luminance. -/
def quantizeOther (k : Nat) (lum : Byte) (s : State) : Bool × State :=
  let o := Config.otherDiffusion k (diffusionInput lum s)
  (o.m, applyDiffusion o s)

/-! ### Dispatch and end of row -/

/-- `quantize(lum)`: the monochrome bit of the current pixel, and the state with what MODE 1 writes
(42_quantizer.md R136). -/
def quantize (lum : Byte) (s : State) : Bool × State :=
  match s.mode with
  | .threshold => (thresholdBit s.thresh lum, s)
  | .ordered => (thresholdBit (ordThreshold s.params.ordMap s.x.toNat s.y.toNat) lum, s)
  | .diffuse =>
    match s.params.diffusion with
    | .floydSteinberg => quantizeFloydSteinberg lum s
    | .other k => quantizeOther k lum s

/-- What `end_of_row` does to LB: in MODE 1, `LB[WIDTH] <- C51'` (43_error_diffusion.md R145). Another algorithm has made
its own writes. -/
def endOfRowBuffer (s : State) : LineBuffer :=
  match s.mode, s.params.diffusion with
  | .diffuse, .floydSteinberg => s.lb.write s.width.toNat (BitVec.ofInt 12 s.c51.toInt)
  | _, _ => s.lb

/-- `end_of_row` (43_error_diffusion.md R145): the buffer's last write of the row, then in every mode the carries to 0. -/
def endOfRow (s : State) : State :=
  { s with lb := endOfRowBuffer s, c7 := 0#11, c51 := 0#11, c1 := 0#9 }

end Sys2Proof.Machine
end

