-- ==== Sys2Proof/Machine/Output.lean ====
section
/-! DEFINITION. The preview colorizer and the bitmap packer (44_preview_and_packer.md R160 to R168). -/

namespace Sys2Proof.Machine

/-- (0, 0, 0) (00_scope.md R6; 44_preview_and_packer.md R161, R162). -/
def black : Colour := 0x000000#24

/-- (255, 255, 255) (00_scope.md R6; 44_preview_and_packer.md R161, R162). -/
def white : Colour := 0xFFFFFF#24

/-- (255, 130, 0) (00_scope.md R6; 44_preview_and_packer.md R161, R162). -/
def accent : Colour := 0xFF8200#24

/-- `preview(m, bg)` (44_preview_and_packer.md R161). -/
def preview (m bg : Bool) : Colour := if m then (if bg then accent else white) else black

/-- The record of a pixel with monochrome bit `m` (44_preview_and_packer.md R160). -/
def pixelRecord (m bg : Bool) : PixelRecord := { m := m, rgb := preview m bg }

/-- `SR'`: the bit `b` placed at position `7 - BC` (44_preview_and_packer.md R166). -/
def place (b : Bool) (s : State) : Byte :=
  s.sr ||| ((BitVec.ofBool b).setWidth 8 <<< (7 - s.bc.toNat))

/-- `BC = 7 or X = WIDTH - 1`: the byte is flushed (44_preview_and_packer.md R167). -/
def flushes (s : State) : Bool := s.bc == 7#3 || lastOfRow s

/-- `pack(b)` (44_preview_and_packer.md R166, R167). -/
def pack (b : Bool) (s : State) : State :=
  if flushes s then { emitByte (place b s) s with sr := 0#8, bc := 0#3 }
  else { s with sr := place b s, bc := s.bc + 1#3 }

end Sys2Proof.Machine
end

