-- ==== Sys2Proof/Machine/Configure.lean ====
section
/-! DEFINITION. The configuration commands (40_config_commands.md R110 to R114). -/

namespace Sys2Proof.Machine

/-- SETW w (40_config_commands.md R111). -/
def execSetw (w : BitVec 12) (s : State) : StepResult :=
  inIdle (fun s => .next { s with width := w }) s

/-- SETH h (40_config_commands.md R112). -/
def execSeth (h : BitVec 12) (s : State) : StepResult :=
  inIdle (fun s => .next { s with height := h }) s

/-- SETT t (40_config_commands.md R114). -/
def execSett (t : BitVec 8) (s : State) : StepResult :=
  inIdle (fun s => .next { s with thresh := t }) s

/-- SETM mode, bg (40_config_commands.md R113). The term with `mode` = 3 is no command: it has the effect of the ILLEGAL
word that carries it, which comes before the phase is tested (30_encoding.md R85; 41_frame_control.md R120). -/
def execSetm (mode : BitVec 2) (bg : Bool) (s : State) : StepResult :=
  match modeOfField mode with
  | some m => inIdle (fun s => .next { s with mode := m, bg := bg }) s
  | none => .next (illegalCommand s)

end Sys2Proof.Machine
end

