-- ==== Sys2Proof/Machine/FrameControl.lean ====
section
/-! DEFINITION. START and RST (41_frame_control.md R121 to R125). -/

namespace Sys2Proof.Machine

/-- `HEADER`, the first payload byte (00_scope.md R6; 41_frame_control.md R123). -/
def headerByte : Byte := 0x00#8

/-- What a START with a legal geometry does (41_frame_control.md R121). -/
def beginFrame (s : State) : State := { emitByte headerByte (initFrame s) with ph := .run }

/-- START (41_frame_control.md R121). -/
def execStart (s : State) : StepResult :=
  inIdle (fun s => .next (if geometryBad s then raise .invalidGeometry s else beginFrame s)) s

/-- RST, in every phase (41_frame_control.md R125). -/
def execRst (s : State) : StepResult := .next (resetAll s)

end Sys2Proof.Machine
end

