-- ==== Sys2Proof/Machine/Pixel.lean ====
section
/-! DEFINITION. PIX (42_quantizer.md R137). -/

namespace Sys2Proof.Machine

/-- Whether the pixel's line-buffer index X + 1 exists; asked in MODE 1 only (43_error_diffusion.md R141;
20_memory.md R52). At the end of a row WIDTH is X + 1, so this index covers the write of 43_error_diffusion.md R145. -/
def bufferReached (s : State) : Bool :=
  match s.mode with
  | .diffuse => decide (s.x.toNat + 1 ≤ s.params.wMax)
  | .threshold => true
  | .ordered => true

/-- The sequencer's part of PIX: the next pixel's place, and at the last pixel the end of the frame
(42_quantizer.md R137; 41_frame_control.md R124). -/
def advance (s : State) : State :=
  if lastOfRow s then
    if lastRow s then { s with x := 0#12, y := s.y + 1#12, ph := .idle, done := true }
    else { s with x := 0#12, y := s.y + 1#12 }
  else { s with x := s.x + 1#12 }

/-- `end_of_row` at the last pixel of a row, nothing elsewhere (42_quantizer.md R137). -/
def closeRow (s : State) : State := if lastOfRow s then endOfRow s else s

/-- What follows the quantizer, in the order of 42_quantizer.md R137. -/
def outputPixel (m : Bool) (s : State) : State :=
  advance (closeRow (pack (!m) (emitPixel (pixelRecord m s.bg) s)))

/-- PIX p in phase RUN (42_quantizer.md R137). -/
def pixelStep (p : BitVec 8) (s : State) : State := outputPixel (quantize p s).1 (quantize p s).2

/-- PIX p (42_quantizer.md R137). -/
def execPix (p : BitVec 8) (s : State) : StepResult :=
  inRun (fun s => if bufferReached s then .next (pixelStep p s) else .fault .lineBufferIndex) s

end Sys2Proof.Machine
end

