-- ==== Sys2Proof/Machine/Dispatch.lean ====
section
/-! DEFINITION. The dispatch: one arm for each command (41_frame_control.md R120 step 5). -/

namespace Sys2Proof.Machine

def exec (i : Instr) (s : State) : Host.Outcome State Fault Refusal :=
  match i with
  | .setw w => Sys2Proof.Machine.execSetw w s
  | .seth h => Sys2Proof.Machine.execSeth h s
  | .sett t => Sys2Proof.Machine.execSett t s
  | .setm mode bg => Sys2Proof.Machine.execSetm mode bg s
  | .start => Sys2Proof.Machine.execStart s
  | .pix p => Sys2Proof.Machine.execPix p s
  | .rst => Sys2Proof.Machine.execRst s

end Sys2Proof.Machine
end

