-- ==== Sys2Proof/Machine/Step.lean ====
section
/-! DEFINITION. One step: the next event of the host, and what the block does with it (41_frame_control.md R120;
70_reset_and_hazards.md R210; 00_scope.md R8). -/

namespace Sys2Proof.Machine

/-- One step. With nothing presented the block holds its state (00_scope.md R8). The RESET pin and RST do the same
(70_reset_and_hazards.md R211). A word is decoded before the phase is looked at (60_exceptions.md R193). -/
def step (s : State) : Host.Outcome State Fault Refusal :=
  match fetch s with
  | none => .next s
  | some (.resetPin, s') => .next (resetAll s')
  | some (.command w, s') =>
    match decode w with
    | .command i => exec i s'
    | .illegal _ => .next (illegalCommand s')

/-- The state with one more command word presented, the one the next step takes: how a command reaches the block
(20_memory.md R50 (1)). -/
def State.withFetchWord (s : State) (nbits w : Nat) : State := present (BitVec.ofNat 16 (w % 2 ^ nbits)) s

end Sys2Proof.Machine
end

