-- ==== Sys2Proof/Machine/Assembler.lean ====
section
/-! DEFINITION. The assembler syntax and the pseudo-instructions (30_encoding.md R86, R87). They add no behaviour: they
write down command words. -/

namespace Sys2Proof.Machine

/-- One line of a program, its operands as the integers that were written (30_encoding.md R86, R87). -/
inductive AsmLine where
  | setw (n : Nat)
  | seth (n : Nat)
  | sett (n : Nat)
  | setm (mode bg : Nat)
  | start
  | pix (n : Nat)
  | rst
  /-- `.word n`, the value itself. -/
  | word (n : Nat)
  /-- `CONFIG w, h, t, mode, bg`. -/
  | config (w h t mode bg : Nat)
  /-- `ROW p0, p1, …, pk`. -/
  | row (pixels : List Nat)
  /-- `FILL n, p`. -/
  | fill (n p : Nat)
  /-- `FRAME w, h, t, mode, bg` and its pixel values. -/
  | frame (w h t mode bg : Nat) (pixels : List Nat)
deriving DecidableEq, Repr

/-- Join the words of several parts; one error makes the whole an error. -/
def joinWords : List (Option (List Word)) → Option (List Word)
  | [] => some []
  | none :: _ => none
  | some ws :: rest => (joinWords rest).map (ws ++ ·)

/-- The word of an instruction whose operands are in range, an assembly error otherwise (30_encoding.md R86). -/
def wordIf (inRange : Bool) (i : Instr) : Option (List Word) := if inRange then some [encode i] else none

/-- SETW n, 0 ≤ n ≤ 4095 (30_encoding.md R86). -/
def asmSetw (n : Nat) : Option (List Word) := wordIf (decide (n ≤ 4095)) (.setw (BitVec.ofNat 12 n))

/-- SETH n, 0 ≤ n ≤ 4095 (30_encoding.md R86). -/
def asmSeth (n : Nat) : Option (List Word) := wordIf (decide (n ≤ 4095)) (.seth (BitVec.ofNat 12 n))

/-- SETT n, 0 ≤ n ≤ 255 (30_encoding.md R86). -/
def asmSett (n : Nat) : Option (List Word) := wordIf (decide (n ≤ 255)) (.sett (BitVec.ofNat 8 n))

/-- SETM mode, bg: mode 0, 1 or 2, bg 0 or 1 (30_encoding.md R86). -/
def asmSetm (mode bg : Nat) : Option (List Word) :=
  wordIf (decide (mode ≤ 2) && decide (bg ≤ 1)) (.setm (BitVec.ofNat 2 mode) (bg == 1))

/-- PIX n, 0 ≤ n ≤ 255 (30_encoding.md R86). -/
def asmPix (n : Nat) : Option (List Word) := wordIf (decide (n ≤ 255)) (.pix (BitVec.ofNat 8 n))

/-- `.word n`: the value verbatim, if it has 16 bits (30_encoding.md R86). -/
def asmWord (n : Nat) : Option (List Word) := if n ≤ 65535 then some [BitVec.ofNat 16 n] else none

/-- CONFIG: SETW, SETH, SETT, SETM in that order (30_encoding.md R87). -/
def asmConfig (w h t mode bg : Nat) : Option (List Word) :=
  joinWords [asmSetw w, asmSeth h, asmSett t, asmSetm mode bg]

/-- ROW: one PIX for each pixel, at least one (30_encoding.md R87). -/
def asmRow (pixels : List Nat) : Option (List Word) :=
  if pixels.isEmpty then none else joinWords (pixels.map asmPix)

/-- FILL: `n` copies of PIX p (30_encoding.md R87); an operand out of range is an error whatever `n` is (R86). -/
def asmFill (n p : Nat) : Option (List Word) := (asmPix p).map (fun ws => (List.replicate n ws).flatten)

/-- FRAME: CONFIG, START and one PIX for each of its `w×h` pixel values (30_encoding.md R87). -/
def asmFrame (w h t mode bg : Nat) (pixels : List Nat) : Option (List Word) :=
  if pixels.length = w * h then
    joinWords [asmConfig w h t mode bg, some [encode .start], joinWords (pixels.map asmPix)]
  else none

/-- The words of one line; `none` is an assembly error (30_encoding.md R86, R87). -/
def assembleLine : AsmLine → Option (List Word)
  | .setw n => asmSetw n
  | .seth n => asmSeth n
  | .sett n => asmSett n
  | .setm mode bg => asmSetm mode bg
  | .start => some [encode .start]
  | .pix n => asmPix n
  | .rst => some [encode .rst]
  | .word n => asmWord n
  | .config w h t mode bg => asmConfig w h t mode bg
  | .row pixels => asmRow pixels
  | .fill n p => asmFill n p
  | .frame w h t mode bg pixels => asmFrame w h t mode bg pixels

/-! ### The text of a line (30_encoding.md R86) -/

/-- The parts of a text between separators. -/
def splitAtChar (sep : Char) : List Char → List (List Char)
  | [] => [[]]
  | c :: rest =>
    if c = sep then [] :: splitAtChar sep rest
    else
      match splitAtChar sep rest with
      | [] => [[c]]
      | part :: parts => (c :: part) :: parts

/-- The blank characters between the parts of a line. -/
def isBlank (c : Char) : Bool := c == ' ' || c == '\t' || c == '\r'

/-- A text without the blanks at its ends. -/
def trimBlanks (cs : List Char) : List Char := ((cs.dropWhile isBlank).reverse.dropWhile isBlank).reverse

/-- The value of a digit, decimal or hexadecimal. -/
def digitValue (c : Char) : Option Nat :=
  if '0'.toNat ≤ c.toNat ∧ c.toNat ≤ '9'.toNat then some (c.toNat - '0'.toNat)
  else if 'a'.toNat ≤ c.toNat ∧ c.toNat ≤ 'f'.toNat then some (c.toNat - 'a'.toNat + 10)
  else if 'A'.toNat ≤ c.toNat ∧ c.toNat ≤ 'F'.toNat then some (c.toNat - 'A'.toNat + 10)
  else none

/-- The value of a string of digits after a number `acc`. -/
def digitsFrom (base acc : Nat) : List Char → Option Nat
  | [] => some acc
  | c :: rest =>
    match digitValue c with
    | some d => if d < base then digitsFrom base (acc * base + d) rest else none
    | none => none

/-- An integer, decimal or `0x` hexadecimal (30_encoding.md R86). -/
def parseNumber : List Char → Option Nat
  | [] => none
  | '0' :: 'x' :: d :: rest => digitsFrom 16 0 (d :: rest)
  | cs => digitsFrom 10 0 cs

/-- A mode: its name or its number (30_encoding.md R86). -/
def parseMode (cs : List Char) : Option Nat :=
  if cs = "THRESHOLD".toList then some 0
  else if cs = "DIFFUSE".toList then some 1
  else if cs = "ORDERED".toList then some 2
  else parseNumber cs

/-- All of a list of operands, as integers. -/
def parseNumbers : List (List Char) → Option (List Nat)
  | [] => some []
  | cs :: rest =>
    match parseNumber cs, parseNumbers rest with
    | some n, some ns => some (n :: ns)
    | _, _ => none

/-- `w, h, t, mode, bg` and what follows them (30_encoding.md R87). -/
def parseConfig : List (List Char) → Option (Nat × Nat × Nat × Nat × Nat × List Nat)
  | w :: h :: t :: mode :: bg :: rest =>
    match parseNumbers [w, h, t, bg], parseMode mode, parseNumbers rest with
    | some [w', h', t', bg'], some mode', some rest' => some (w', h', t', mode', bg', rest')
    | _, _, _ => none
  | _ => none

/-- A line's mnemonic and operands as one of the forms of 30_encoding.md R86 and R87. -/
def parseForm (mnemonic : List Char) (operands : List (List Char)) : Option AsmLine :=
  if mnemonic = "SETM".toList then
    match operands with
    | [mode] => (parseMode mode).map (AsmLine.setm · 0)
    | [mode, bg] =>
      match parseMode mode, parseNumber bg with
      | some m, some b => some (.setm m b)
      | _, _ => none
    | _ => none
  else if mnemonic = "CONFIG".toList then
    match parseConfig operands with
    | some (w, h, t, mode, bg, []) => some (.config w h t mode bg)
    | _ => none
  else if mnemonic = "FRAME".toList then
    match parseConfig operands with
    | some (w, h, t, mode, bg, pixels) => some (.frame w h t mode bg pixels)
    | none => none
  else
    match parseNumbers operands with
    | none => none
    | some ns =>
      if mnemonic = "ROW".toList then some (.row ns)
      else
        match ns with
        | [] =>
          if mnemonic = "START".toList then some .start
          else if mnemonic = "RST".toList then some .rst
          else none
        | [n] =>
          if mnemonic = "SETW".toList then some (.setw n)
          else if mnemonic = "SETH".toList then some (.seth n)
          else if mnemonic = "SETT".toList then some (.sett n)
          else if mnemonic = "PIX".toList then some (.pix n)
          else if mnemonic = ".word".toList then some (.word n)
          else none
        | [n, p] => if mnemonic = "FILL".toList then some (.fill n p) else none
        | _ => none

/-- One line of text without its comment: nothing, or one command (30_encoding.md R86). -/
def assembleText (line : List Char) : Option (List Word) :=
  let code := trimBlanks (line.takeWhile (· != ';'))
  if code.isEmpty then some []
  else
    let mnemonic := code.takeWhile (fun c => !isBlank c)
    let rest := trimBlanks (code.dropWhile (fun c => !isBlank c))
    let operands := if rest.isEmpty then [] else (splitAtChar ',' rest).map trimBlanks
    match parseForm mnemonic operands with
    | some l => assembleLine l
    | none => none

/-- A program: one command per line (30_encoding.md R86). -/
def assemble (program : String) : Option (List Word) :=
  joinWords ((splitAtChar '\n' program.toList).map assembleText)

end Sys2Proof.Machine
end

