-- ==== Sys2Proof/Safety.lean ====
section
/-! DEFINITION. The terms claims are stated in: the invariant of the reachable states, what counts as a safe run, the
payload format as a function of the picture, the error diffusion as a function of the picture, and relations between two
runs. Nothing here is part of the machine. -/

namespace Sys2Proof.Machine

/-! ### Outcomes -/

/-- The outcome with its next state changed by `f`. -/
def mapNext (f : State → State) : StepResult → StepResult
  | .next s => .next (f s)
  | .fault r => .fault r
  | .refused r => .refused r

/-- Two outcomes of the same kind, next states related by `R`. -/
def outcomesRelated (R : State → State → Prop) : StepResult → StepResult → Prop
  | .next a, .next b => R a b
  | .fault r, .fault r' => r = r'
  | .refused r, .refused r' => r = r'
  | _, _ => False

/-- `n` steps of the machine. -/
def runSteps (n : Nat) (s : State) : StepResult := Host.Core.run Sys2Proof.core n s

/-- A run is safe when it is at a state outside phase ERR: a run that ends in ERR is a failed run
(60_exceptions.md R191). -/
def safeOutcome : StepResult → Prop
  | .next s => s.ph ≠ .err
  | .fault _ => False
  | .refused _ => False

/-! ### The reachable states (10_state.md R35) -/

/-- The geometry of a frame START accepts (41_frame_control.md R121). -/
structure GoodGeometry (s : State) : Prop where
  width_pos : 1 ≤ s.width.toNat
  width_le : s.width.toNat ≤ s.params.wMax
  height_pos : 1 ≤ s.height.toNat

/-- All three carries are 0. -/
def carriesZero (s : State) : Prop := s.c7 = 0#11 ∧ s.c51 = 0#11 ∧ s.c1 = 0#9

/-- What holds during a frame (10_state.md R35 (iii)). -/
structure InFrame (s : State) : Prop where
  geometry : GoodGeometry s
  x_lt : s.x.toNat < s.width.toNat
  y_lt : s.y.toNat < s.height.toNat
  not_done : s.done = false
  bc_eq : s.bc.toNat = s.x.toNat % 8
  sr_low : s.sr.toNat % 2 ^ (8 - s.bc.toNat) = 0
  row_start : s.x = 0#12 → carriesZero s
  buffer : s.lb.fill = .zero
  /-- 10_state.md R35 (iv). -/
  undiffused : s.mode ≠ .diffuse → carriesZero s ∧ ∀ i, s.lb.read i = 0#12

/-- What holds after a completed frame, until the next START or reset (10_state.md R35 (v)). -/
structure AfterFrame (s : State) : Prop where
  x_eq : s.x = 0#12
  sr_eq : s.sr = 0#8
  bc_eq : s.bc = 0#3
  carries : carriesZero s

/-- The invariant of 10_state.md R35, with the canonical form of the line buffer. Its clause (i) holds by the types of PH
and MODE; its clause (vi) speaks of the emissions since a START and is `bytesSince`. -/
structure Inv (s : State) : Prop where
  params : s.params.wf = true
  canonical : s.lb.wf = true
  indices : ∀ c ∈ s.lb.cells, c.1 ≤ s.params.wMax
  /-- 10_state.md R35 (ii). -/
  errcode : s.errcode ≠ none ↔ s.ph = .err
  running : s.ph = .run → InFrame s
  finished : s.ph = .idle → s.done = true → AfterFrame s

/-- `ceil8(w)`, the number of payload bytes of a row (00_scope.md section 7.1). -/
def stride (w : Nat) : Nat := (w + 7) / 8

/-- 10_state.md R35 (vi) during a frame whose START found `n0` bytes emitted. -/
def bytesSince (n0 : Nat) (s : State) : Prop :=
  s.bytes.length = n0 + (1 + s.y.toNat * stride s.width.toNat + s.x.toNat / 8)

/-! ### The payload format (20_memory.md R55 to R60) -/

/-- The payload bit of column `c` of a row of `w` monochrome bits: inverted, and 0 in the padding (20_memory.md R57, R58). -/
def payloadBit (w : Nat) (m : Nat → Bool) (c : Nat) : Bool := decide (c < w) && !m c

/-- Byte `k` of a row, its first pixel in bit 7 (20_memory.md R56). -/
def payloadByte (w : Nat) (m : Nat → Bool) (k : Nat) : Byte :=
  BitVec.ofBool (payloadBit w m (8 * k)) ++ BitVec.ofBool (payloadBit w m (8 * k + 1)) ++
  BitVec.ofBool (payloadBit w m (8 * k + 2)) ++ BitVec.ofBool (payloadBit w m (8 * k + 3)) ++
  BitVec.ofBool (payloadBit w m (8 * k + 4)) ++ BitVec.ofBool (payloadBit w m (8 * k + 5)) ++
  BitVec.ofBool (payloadBit w m (8 * k + 6)) ++ BitVec.ofBool (payloadBit w m (8 * k + 7))

/-- The bytes of a row (20_memory.md R56). -/
def payloadRow (w : Nat) (m : Nat → Bool) : List Byte := (List.range (stride w)).map (payloadByte w m)

/-- The rows in order, top row first (20_memory.md R56); `m y x` is the bit of column `x` of row `y`. -/
def payloadRows (w h : Nat) (m : Nat → Nat → Bool) : List Byte := (List.range h).flatMap (fun y => payloadRow w (m y))

/-- The BitmapPayload of a picture (20_memory.md R55). -/
def payloadOf (w h : Nat) (m : Nat → Nat → Bool) : List Byte := 0x00#8 :: payloadRows w h m

/-- The monochrome bit a payload holds for column `x` of row `y` (20_memory.md R60). -/
def unpackBit (payload : List Byte) (w x y : Nat) : Bool :=
  !(payload.getD (1 + y * stride w + x / 8) 0#8).getLsbD (7 - x % 8)

/-- The records of a frame in raster order, from its picture (44_preview_and_packer.md R160). -/
def rasterRecords (w h : Nat) (m : Nat → Nat → Bool) (bg : Bool) : List PixelRecord :=
  (List.range (w * h)).map (fun i => pixelRecord (m (i / w) (i % w)) bg)

/-- How many records are foreground, that is off (42_quantizer.md R131). -/
def foregroundCount (records : List PixelRecord) : Nat := records.countP (fun r => !r.m)

/-! ### The commands of a frame -/

/-- The words of some instructions, as the host presents them. -/
def commandsOf (is : List Instr) : List HostEvent := is.map (fun i => .command (encode i))

/-- START and one PIX for each pixel (70_reset_and_hazards.md R213 steps 3 and 4). -/
def frameCommands (pixels : List Byte) : List HostEvent := commandsOf (.start :: pixels.map .pix)

/-- The luminance of column `x` of row `y` of pixels in raster order. -/
def lumAt (pixels : List Byte) (w y x : Nat) : Byte := pixels.getD (y * w + x) 0#8

/-- The block is about to take a whole frame: phase IDLE, a good geometry, the commands of the frame next, as many pixels
as the geometry says, and after them `rest` (70_reset_and_hazards.md R213). -/
structure FrameReady (s : State) (pixels : List Byte) (rest : List HostEvent) : Prop where
  idle : s.ph = .idle
  geometry : GoodGeometry s
  count : pixels.length = s.width.toNat * s.height.toNat
  input : s.input = frameCommands pixels ++ rest

/-! ### One pixel, field by field -/

/-- `X = WIDTH - 1` (42_quantizer.md R137). -/
abbrev atRowEnd (s : State) : Prop := s.x.toNat + 1 = s.width.toNat

/-- `X = WIDTH - 1` and `Y = HEIGHT - 1` (41_frame_control.md R124). -/
abbrev atFrameEnd (s : State) : Prop := atRowEnd s ∧ s.y.toNat + 1 = s.height.toNat

/-- A byte leaves at this pixel: `BC = 7` or `X = WIDTH - 1` (44_preview_and_packer.md R167). -/
abbrev atByteEnd (s : State) : Prop := s.bc.toNat = 7 ∨ atRowEnd s

/-- SR with the payload bit of a pixel at position `7 - BC`, 1 for an off pixel (44_preview_and_packer.md R165, R166). -/
def srWith (m : Bool) (s : State) : Byte := s.sr ||| (if m then 0#8 else BitVec.ofNat 8 (2 ^ (7 - s.bc.toNat)))

/-- The preview colour of a monochrome bit (44_preview_and_packer.md R161). -/
def colourOf (m bg : Bool) : Colour := if m then (if bg then 0xFF8200#24 else 0xFFFFFF#24) else 0x000000#24

/-- The state after a pixel of monochrome bit `m` as one record, everything but the carries and LB
(42_quantizer.md R137; 44_preview_and_packer.md R160, R161, R165 to R167; 41_frame_control.md R124). -/
def afterPixel (m : Bool) (s : State) : State :=
  { s with
    pixels := s.pixels ++ [{ m := m, rgb := colourOf m s.bg }]
    bytes := if atByteEnd s then s.bytes ++ [srWith m s] else s.bytes
    sr := if atByteEnd s then 0#8 else srWith m s
    bc := if atByteEnd s then 0#3 else s.bc + 1#3
    x := if atRowEnd s then 0#12 else s.x + 1#12
    y := if atRowEnd s then s.y + 1#12 else s.y
    ph := if atFrameEnd s then .idle else s.ph
    done := if atFrameEnd s then true else s.done }

/-- X, Y and DONE are as before. -/
def sameSequencer (s t : State) : Prop := t.x = s.x ∧ t.y = s.y ∧ t.done = s.done

/-- Nothing was emitted. -/
def nothingEmitted (s t : State) : Prop := t.bytes = s.bytes ∧ t.pixels = s.pixels

/-- SETW, SETH, SETT and SETM: the commands that are legal in phase IDLE and write one register or CTRL
(40_config_commands.md R110). -/
def isConfiguration : Instr → Bool
  | .setw _ => true
  | .seth _ => true
  | .sett _ => true
  | .setm _ _ => true
  | .start => false
  | .pix _ => false
  | .rst => false

/-! ### The error diffusion of a picture (43_error_diffusion.md R142) -/

/-- The error of a pixel of luminance `lum` that receives `v` sixteenths. -/
def pixelError (lum : Byte) (v : Int) : Int := quantError (correctedLum lum v)

/-- The errors of a row of luminances below a row of errors. -/
def rowErrors (lum : Nat → Byte) (above : Nat → Int) : Nat → Int
  | 0 => pixelError (lum 0) (5 * above 0 + 3 * above 1)
  | x + 1 =>
    pixelError (lum (x + 1)) (7 * rowErrors lum above x + above x + 5 * above (x + 1) + 3 * above (x + 2))

/-- The errors of a picture `w` wide, row `y` column `x`, 0 beyond its right edge. -/
def frameErrors (w : Nat) (lum : Nat → Nat → Byte) : Nat → Nat → Int
  | 0, x => if x < w then rowErrors (lum 0) (fun _ => 0) x else 0
  | y + 1, x => if x < w then rowErrors (lum (y + 1)) (frameErrors w lum y) x else 0

/-- `e(x, y)`, 0 at a position outside the frame (43_error_diffusion.md R142). -/
def errorAt (w : Nat) (lum : Nat → Nat → Byte) (x y : Int) : Int :=
  if 0 ≤ x ∧ 0 ≤ y then frameErrors w lum y.toNat x.toNat else 0

/-- `7·e(x-1, y) + 1·e(x-1, y-1) + 5·e(x, y-1) + 3·e(x+1, y-1)` (43_error_diffusion.md R142). -/
def incomingAt (w : Nat) (lum : Nat → Nat → Byte) (x y : Int) : Int :=
  7 * errorAt w lum (x - 1) y + errorAt w lum (x - 1) (y - 1) + 5 * errorAt w lum x (y - 1)
    + 3 * errorAt w lum (x + 1) (y - 1)

/-- The monochrome bit of column `x` of row `y` under the diffusion of 43_error_diffusion.md R142. -/
def diffusedBit (w : Nat) (lum : Nat → Nat → Byte) (y x : Nat) : Bool :=
  diffuseBit (correctedLum (lum y x) (incomingAt w lum x y))

/-- `3·e(i, y) + 5·e(i-1, y) + 1·e(i-2, y)`: what row `y` sends to column `i - 1` of the next row
(43_error_diffusion.md R144). -/
def sentDown (w : Nat) (lum : Nat → Nat → Byte) (i y : Int) : Int :=
  3 * errorAt w lum i y + 5 * errorAt w lum (i - 1) y + errorAt w lum (i - 2) y

/-- What the carries and the line buffer hold before the PIX at (X, Y) of a MODE 1 frame of the picture `lum`
(10_state.md R30; 43_error_diffusion.md R144). -/
structure DiffusionTracks (lum : Nat → Nat → Byte) (s : State) : Prop where
  c7 : s.c7.toInt = 7 * errorAt s.width.toNat lum (s.x.toNat - 1) s.y.toNat
  c51 : s.c51.toInt = 5 * errorAt s.width.toNat lum (s.x.toNat - 1) s.y.toNat
    + errorAt s.width.toNat lum (s.x.toNat - 2) s.y.toNat
  c1 : s.c1.toInt = errorAt s.width.toNat lum (s.x.toNat - 1) s.y.toNat
  /-- Entries not yet read in this row, and the one read last. -/
  above : ∀ i : Nat, 1 ≤ i → s.x.toNat ≤ i → i ≤ s.width.toNat →
    (s.lb.read i).toInt = sentDown s.width.toNat lum i (s.y.toNat - 1)
  /-- Entries completed for the next row. -/
  below : ∀ i : Nat, 1 ≤ i → i < s.x.toNat → (s.lb.read i).toInt = sentDown s.width.toNat lum i s.y.toNat
  /-- Entry 0: three times the error of the column-0 pixel processed last. -/
  first : (s.lb.read 0).toInt
    = if s.x = 0#12 then 3 * errorAt s.width.toNat lum 0 (s.y.toNat - 1) else 3 * errorAt s.width.toNat lum 0 s.y.toNat

/-- The ranges of 43_error_diffusion.md R148 for what the state holds. -/
structure InRanges (s : State) : Prop where
  c7 : -882 ≤ s.c7.toInt ∧ s.c7.toInt ≤ 896
  c51 : -756 ≤ s.c51.toInt ∧ s.c51.toInt ≤ 768
  c1 : -126 ≤ s.c1.toInt ∧ s.c1.toInt ≤ 128
  lb : ∀ i, -1134 ≤ (s.lb.read i).toInt ∧ (s.lb.read i).toInt ≤ 1152

/-! ### Two runs -/

/-- Two states that differ in BG and in the colours of their records only (44_preview_and_packer.md R163). -/
structure SameButPreview (a b : State) : Prop where
  state : b = { a with bg := b.bg, pixels := b.pixels }
  mono : b.pixels.map PixelRecord.m = a.pixels.map PixelRecord.m

/-- Two states that differ in LB and the reset counter only, in phases that do not read LB; in RUN they have the same LB
(10_state.md R33). -/
structure SameButIdleBuffer (a b : State) : Prop where
  state : b = { a with lb := b.lb, resets := b.resets }
  running : a.ph = .run → b.lb = a.lb

/-- The same configuration and parameters (10_state.md R34). -/
structure SameConfiguration (a b : State) : Prop where
  width : b.width = a.width
  height : b.height = a.height
  thresh : b.thresh = a.thresh
  mode : b.mode = a.mode
  bg : b.bg = a.bg
  params : b.params = a.params

end Sys2Proof.Machine
end

