-- ==== Sys2Proof/Certificates/Slice0/Obligations.lean ====
section
/-! DEFINITION. The statements for the provers. Each docstring names the rule of the spec the statement formalises;
OBLIGATIONS.json lists them. -/

open Sys2Proof Sys2Proof.Machine

/-! ### Encoding -/

/-- 30_encoding.md R80, R81, R84: the word of every well-formed command decodes to that command, every operand at every
value its field admits. -/
def Obligations.DecodeInvertsEncode : Prop :=
  ∀ i : Instr, i.wellFormed = true → decode (encode i) = .command i

/-- 30_encoding.md R80 to R82: a word that decodes to a command is that command's word, and the command is well formed;
no bit of a word is ignored. -/
def Obligations.DecodedWordsAreEncodings : Prop :=
  ∀ (w : Word) (i : Instr), decode w = .command i → i.wellFormed = true ∧ encode i = w

/-- 30_encoding.md R81: a word decodes to a command of a row iff the row's mask, match and extra condition hold of it; the
rows are disjoint; a word that matches no row is illegal. -/
def Obligations.DecodeFollowsOpcodeMap : Prop :=
  (∀ (w : Word) (name : String), (∃ i, decode w = .command i ∧ mnemonicOf i = name) ↔
    ∃ r ∈ opcodeRows, r.mnemonic = name ∧ r.holds w = true) ∧
  (∀ (w : Word), ∀ r ∈ opcodeRows, ∀ r' ∈ opcodeRows, r.holds w = true → r'.holds w = true → r = r') ∧
  (∀ w : Word, (∀ r ∈ opcodeRows, r.holds w = false) → ∃ why, decode w = .illegal why)

/-- 30_encoding.md R85: which words are ILLEGAL (`w / 4096` is the opcode, `w % 4096` the operand field), and what a step
on one does: IllegalCommand in IDLE and RUN, nothing in ERR. -/
def Obligations.IllegalWordsRaiseIllegalCommand : Prop :=
  ∀ w : Word,
    ((∃ why, decode w = .illegal why) ↔
      (w.toNat / 4096 ∈ [0x0, 0x7, 0x8, 0x9, 0xA, 0xB, 0xC, 0xD, 0xE] ∨
       (w.toNat / 4096 ∈ [0x3, 0x6] ∧ w.toNat % 4096 / 256 ≠ 0) ∨
       (w.toNat / 4096 = 0x4 ∧ (w.toNat % 4096 / 8 ≠ 0 ∨ w.toNat % 4 = 3)) ∨
       (w.toNat / 4096 ∈ [0x5, 0xF] ∧ w.toNat % 4096 ≠ 0))) ∧
    ∀ (s : State) (rest : List HostEvent) (why : Illegal), s.input = .command w :: rest → decode w = .illegal why →
      (s.ph = .err → step s = .next { s with input := rest }) ∧
      (s.ph ≠ .err → step s = .next { s with input := rest, errcode := some .illegalCommand, ph := .err })

/-- 30_encoding.md R84: every operand is the unsigned field of the word's low bits. -/
def Obligations.OperandsAreLowBits : Prop :=
  (∀ (w : Word) v, decode w = .command (.setw v) → v.toNat = w.toNat % 4096) ∧
  (∀ (w : Word) v, decode w = .command (.seth v) → v.toNat = w.toNat % 4096) ∧
  (∀ (w : Word) v, decode w = .command (.sett v) → v.toNat = w.toNat % 256) ∧
  (∀ (w : Word) v, decode w = .command (.pix v) → v.toNat = w.toNat % 256) ∧
  (∀ (w : Word) mode bg, decode w = .command (.setm mode bg) →
    mode.toNat = w.toNat % 4 ∧ (bg = true ↔ w.toNat / 4 % 2 = 1))

/-- 30_encoding.md R81, 95_test_vectors.md section 2: sample words of every row, and ILLEGAL ones, written out. -/
def Obligations.SampleWordsDecode : Prop :=
  decode 0b0001000010000000#16 = .command (.setw 128#12) ∧
  decode 0b0010000001000000#16 = .command (.seth 64#12) ∧
  decode 0b0011000001100100#16 = .command (.sett 100#8) ∧
  decode 0b0100000000000101#16 = .command (.setm 1#2 true) ∧
  decode 0b0101000000000000#16 = .command .start ∧
  decode 0b0110000011111111#16 = .command (.pix 255#8) ∧
  decode 0b1111000000000000#16 = .command .rst ∧
  decode 0b0100000000000011#16 = .illegal .reservedMode ∧
  decode 0b0110000100000000#16 = .illegal .mustBeZero ∧
  decode 0b0000000000000000#16 = .illegal (.reservedOpcode 0#4)

/-! ### The step function -/

/-- 41_frame_control.md R120 step 5: a word that decodes to a command is taken from the input and the command is executed;
the step adds nothing around it. -/
def Obligations.StepRunsDecodedCommand : Prop :=
  ∀ (s : State) (w : Word) (rest : List HostEvent) (i : Instr),
    s.input = .command w :: rest → decode w = .command i → step s = exec i { s with input := rest }

/-- The model's own convention (log entry 2; 00_scope.md R8, 70_reset_and_hazards.md R216): with nothing presented a step
changes nothing, in every phase, so an unfinished frame stays as it is. -/
def Obligations.StepWithNothingPresentedHoldsState : Prop :=
  ∀ s : State, s.input = [] → ∀ n, runSteps n s = .next s

/-- 41_frame_control.md R120: the step function, its tests in their order. -/
def Obligations.StepTestsInOrder : Prop :=
  ∀ (s u : State) (w : Word) (rest : List HostEvent), s.input = .command w :: rest → u = { s with input := rest } →
    (decode w = .command .rst → step s = .next (resetAll u)) ∧
    (decode w ≠ .command .rst → s.ph = .err → step s = .next u) ∧
    (∀ why, s.ph ≠ .err → decode w = .illegal why → step s = .next (raise .illegalCommand u)) ∧
    (∀ i, s.ph = .run → decode w = .command i → isConfiguration i = true ∨ i = .start →
      step s = .next (raise .encodingError u)) ∧
    (∀ p, s.ph = .idle → decode w = .command (.pix p) → step s = .next (raise .encodingError u)) ∧
    (∀ i, s.ph = .idle → decode w = .command i → isConfiguration i = true ∨ i = .start → step s = exec i u) ∧
    (∀ p, s.ph = .run → decode w = .command (.pix p) → step s = exec (.pix p) u)

/-- 41_frame_control.md R126: the transition table, for every phase and every decoded command, in the reachable states. -/
def Obligations.SequencerFollowsTransitionTable : Prop :=
  ∀ (s t : State) (w : Word) (rest : List HostEvent),
    Inv s → s.input = .command w :: rest → step s = .next t →
    (decode w = .command .rst → t.ph = .idle ∧ t.x = 0#12 ∧ t.y = 0#12 ∧ t.done = false ∧ t.errcode = none ∧
      nothingEmitted s t) ∧
    (s.ph = .err → decode w ≠ .command .rst → t.ph = .err ∧ sameSequencer s t ∧ t.errcode = s.errcode ∧
      nothingEmitted s t) ∧
    (∀ why, s.ph ≠ .err → decode w = .illegal why → t.ph = .err ∧ sameSequencer s t ∧
      t.errcode = some .illegalCommand ∧ nothingEmitted s t) ∧
    (∀ i, s.ph = .idle → decode w = .command i → isConfiguration i = true → t.ph = .idle ∧ sameSequencer s t ∧
      t.errcode = none ∧ nothingEmitted s t) ∧
    (s.ph = .idle → decode w = .command .start →
      s.width = 0#12 ∨ s.height = 0#12 ∨ s.params.wMax < s.width.toNat →
      t.ph = .err ∧ sameSequencer s t ∧ t.errcode = some .invalidGeometry ∧ nothingEmitted s t) ∧
    (s.ph = .idle → decode w = .command .start → GoodGeometry s →
      t.ph = .run ∧ t.x = 0#12 ∧ t.y = 0#12 ∧ t.done = false ∧ t.errcode = none ∧
      t.bytes = s.bytes ++ [0x00#8] ∧ t.pixels = s.pixels) ∧
    (∀ p, s.ph = .idle → decode w = .command (.pix p) → t.ph = .err ∧ sameSequencer s t ∧
      t.errcode = some .encodingError ∧ nothingEmitted s t) ∧
    (∀ i, s.ph = .run → decode w = .command i → isConfiguration i = true ∨ i = .start →
      t.ph = .err ∧ sameSequencer s t ∧ t.errcode = some .encodingError ∧ nothingEmitted s t) ∧
    (∀ p, s.ph = .run → decode w = .command (.pix p) →
      t.errcode = none ∧ (∃ r, t.pixels = s.pixels ++ [r]) ∧
      (s.x.toNat < s.width.toNat - 1 →
        t.ph = .run ∧ t.x.toNat = s.x.toNat + 1 ∧ t.y = s.y ∧ t.done = false ∧
        (if s.bc = 7#3 then ∃ b, t.bytes = s.bytes ++ [b] else t.bytes = s.bytes)) ∧
      (s.x.toNat = s.width.toNat - 1 → s.y.toNat < s.height.toNat - 1 →
        t.ph = .run ∧ t.x = 0#12 ∧ t.y.toNat = s.y.toNat + 1 ∧ t.done = false ∧ ∃ b, t.bytes = s.bytes ++ [b]) ∧
      (s.x.toNat = s.width.toNat - 1 → s.y.toNat = s.height.toNat - 1 →
        t.ph = .idle ∧ t.x = 0#12 ∧ t.y = s.height ∧ t.done = true ∧ ∃ b, t.bytes = s.bytes ++ [b]))

/-- 20_memory.md R50 (1), R65: a step takes one event of the host, the oldest. Two clauses are the model's own choice: that
the events not yet taken survive RST and the RESET pin (log entry 1), and that with nothing presented there is a step,
which leaves the input empty (log entry 2). -/
def Obligations.StepTakesOneHostEvent : Prop :=
  ∀ s t : State, step s = .next t → t.input = s.input.tail

/-! ### Configuration commands -/

/-- 40_config_commands.md R110: a configuration command writes its register in IDLE, raises EncodingError and changes
nothing else in RUN, is ignored in ERR; the whole next state is stated, so nothing else is written or emitted. -/
def Obligations.ConfigurationOnlyInIdle : Prop :=
  (∀ s : State, s.ph = .idle →
    (∀ w, exec (.setw w) s = .next { s with width := w }) ∧
    (∀ h, exec (.seth h) s = .next { s with height := h }) ∧
    (∀ t, exec (.sett t) s = .next { s with thresh := t }) ∧
    (∀ bg, exec (.setm 0#2 bg) s = .next { s with mode := .threshold, bg := bg }) ∧
    (∀ bg, exec (.setm 1#2 bg) s = .next { s with mode := .diffuse, bg := bg }) ∧
    (∀ bg, exec (.setm 2#2 bg) s = .next { s with mode := .ordered, bg := bg })) ∧
  (∀ (s : State) (i : Instr), isConfiguration i = true → i.wellFormed = true →
    (s.ph = .run → exec i s = .next { s with errcode := some .encodingError, ph := .err }) ∧
    (s.ph = .err → exec i s = .next s))

/-- 40_config_commands.md R111: SETW stores any value, and a width that START cannot use makes the next START fault. -/
def Obligations.SetwStoresWidth : Prop :=
  ∀ (w : BitVec 12) (s : State),
    encode (.setw w) = 0x1000#16 ||| w.setWidth 16 ∧
    (s.ph = .idle → exec (.setw w) s = .next { s with width := w }) ∧
    (s.ph = .run → exec (.setw w) s = .next (raise .encodingError s)) ∧
    (s.ph = .idle → w.toNat = 0 ∨ s.params.wMax < w.toNat →
      exec .start { s with width := w } = .next (raise .invalidGeometry { s with width := w }))

/-- 40_config_commands.md R112: SETH stores any value, a height of 0 makes the next START fault, and no other height does
(the width being one START accepts). -/
def Obligations.SethStoresHeight : Prop :=
  ∀ (h : BitVec 12) (s : State),
    encode (.seth h) = 0x2000#16 ||| h.setWidth 16 ∧
    (s.ph = .idle → exec (.seth h) s = .next { s with height := h }) ∧
    (s.ph = .run → exec (.seth h) s = .next (raise .encodingError s)) ∧
    (s.ph = .idle → h.toNat = 0 →
      exec .start { s with height := h } = .next (raise .invalidGeometry { s with height := h })) ∧
    (s.ph = .idle → h.toNat ≠ 0 → s.width.toNat ≠ 0 → s.width.toNat ≤ s.params.wMax →
      ∃ t, exec .start { s with height := h } = .next t ∧ t.ph = .run ∧ t.height = h)

/-- 40_config_commands.md R114, 42_quantizer.md R130: SETT stores any value, and a PIX of the next frame in MODE 0 is
compared with it: its record is on iff the luminance is at least the threshold. -/
def Obligations.SettSetsTheCutoff : Prop :=
  ∀ (v : BitVec 8) (s : State),
    (s.ph = .idle → exec (.sett v) s = .next { s with thresh := v }) ∧
    (s.ph = .run → exec (.sett v) s = .next (raise .encodingError s)) ∧
    (∀ (p : BitVec 8), s.ph = .run → s.mode = .threshold → s.thresh = v →
      ∃ t, exec (.pix p) s = .next t ∧
        t.pixels = s.pixels ++ [{ m := decide (v.toNat ≤ p.toNat), rgb := colourOf (decide (v.toNat ≤ p.toNat)) s.bg }])

/-- 40_config_commands.md R113: SETM writes both fields of CTRL together, and its operands are CTRL's bits. -/
def Obligations.SetmWritesBothFields : Prop :=
  ∀ (f : BitVec 2) (bg : Bool) (s : State), f ≠ 3#2 →
    encode (.setm f bg) = 0x4000#16 ||| ((BitVec.ofBool bg).setWidth 16 <<< 2) ||| f.setWidth 16 ∧
    (s.ph = .idle → ∃ t, exec (.setm f bg) s = .next t ∧ ctrl t = BitVec.ofBool bg ++ f ∧
      t = { s with mode := t.mode, bg := bg }) ∧
    (s.ph = .run → exec (.setm f bg) s = .next (raise .encodingError s))

/-- The model's own convention (log entry 9): the term SETM with the reserved mode, which no word decodes to, does what
the ILLEGAL word that carries it does (30_encoding.md R85). -/
def Obligations.ReservedModeActsAsIllegalWord : Prop :=
  ∀ (bg : Bool) (s : State) (rest : List HostEvent), s.input = .command (encode (.setm 3#2 bg)) :: rest →
    step s = exec (.setm 3#2 bg) { s with input := rest }

/-! ### START, RST and reset -/

/-- 41_frame_control.md R121 to R123: START with a good geometry in IDLE: the whole next state, and every line-buffer
entry reads 0. -/
def Obligations.StartBeginsFrame : Prop :=
  ∀ s : State, s.ph = .idle → s.width ≠ 0#12 → s.height ≠ 0#12 → s.width.toNat ≤ s.params.wMax →
    ∃ t, exec .start s = .next t ∧ (∀ i, t.lb.read i = 0#12) ∧
      t = { s with
        x := 0#12, y := 0#12, done := false, c7 := 0#11, c51 := 0#11, c1 := 0#9, sr := 0#8, bc := 0#3,
        lb := t.lb, bytes := s.bytes ++ [0x00#8], ph := .run }

/-- 60_exceptions.md R181: InvalidGeometry is raised by START, and only by START, exactly when the geometry cannot be
encoded. -/
def Obligations.InvalidGeometryOnlyByStart : Prop :=
  (∀ s : State, s.ph = .idle → s.width = 0#12 ∨ s.height = 0#12 ∨ s.params.wMax < s.width.toNat →
    exec .start s = .next { s with errcode := some .invalidGeometry, ph := .err }) ∧
  (∀ (i : Instr) (s t : State), exec i s = .next t → t.errcode = some .invalidGeometry →
    s.errcode ≠ some .invalidGeometry →
    i = .start ∧ s.ph = .idle ∧ (s.width = 0#12 ∨ s.height = 0#12 ∨ s.params.wMax < s.width.toNat))

/-- 70_reset_and_hazards.md R211: RST and the hardware reset do the same, to every register and to LB, in every phase:
every register takes its reset value, and those of WIDTH, HEIGHT, THRESH, MODE and BG are the rule's. -/
def Obligations.RstEqualsResetPin : Prop :=
  ∀ (s : State) (rest : List HostEvent),
    (∃ t, exec .rst s = .next t ∧
      t = { State.reset with
        params := s.params, input := s.input, bytes := s.bytes, pixels := s.pixels, lb := t.lb,
        resets := t.resets } ∧
      t.width = 0#12 ∧ t.height = 0#12 ∧ t.thresh = 128#8 ∧ t.mode = .threshold ∧ t.bg = false) ∧
    step { s with input := .resetPin :: rest } = exec .rst { s with input := rest } ∧
    step { s with input := .command 0xF000#16 :: rest } = exec .rst { s with input := rest }

/-- 10_state.md R20, 70_reset_and_hazards.md R210: the registers after reset. -/
def Obligations.ResetRegisterValues : Prop :=
  State.reset.width = 0#12 ∧ State.reset.height = 0#12 ∧ State.reset.thresh = 128#8 ∧ ctrl State.reset = 0#3 ∧
  statusPins State.reset = 0#5 ∧ State.reset.x = 0#12 ∧ State.reset.y = 0#12 ∧ State.reset.c7 = 0#11 ∧
  State.reset.c51 = 0#11 ∧ State.reset.c1 = 0#9 ∧ State.reset.sr = 0#8 ∧ State.reset.bc = 0#3 ∧
  (∀ i, State.reset.lb.read i = Config.lbAfterReset 0 i)

/-! ### PIX -/

/-- 42_quantizer.md R130, R137: PIX in MODE 0, the whole next state. -/
def Obligations.PixInThresholdMode : Prop :=
  ∀ (p : BitVec 8) (s : State), s.ph = .run → s.mode = .threshold →
    exec (.pix p) s = .next { afterPixel (decide (s.thresh.toNat ≤ p.toNat)) s with
      c7 := if atRowEnd s then 0#11 else s.c7
      c51 := if atRowEnd s then 0#11 else s.c51
      c1 := if atRowEnd s then 0#9 else s.c1 }

/-- 42_quantizer.md R133, R137: PIX in MODE 2, the whole next state; `thr` is the map's entry. -/
def Obligations.PixInOrderedMode : Prop :=
  ∀ (p : BitVec 8) (s : State) (row : Vector Byte s.params.ordMap.side) (thr : Byte),
    s.ph = .run → s.mode = .ordered →
    s.params.ordMap.rows[s.y.toNat % s.params.ordMap.side]? = some row →
    row[s.x.toNat % s.params.ordMap.side]? = some thr →
    exec (.pix p) s = .next { afterPixel (decide (thr.toNat ≤ p.toNat)) s with
      c7 := if atRowEnd s then 0#11 else s.c7
      c51 := if atRowEnd s then 0#11 else s.c51
      c1 := if atRowEnd s then 0#9 else s.c1 }

/-- 43_error_diffusion.md R141, R145 with 42_quantizer.md R137: PIX in MODE 1 under the decided algorithm. `e` is the
quantization error. Everything but the carries and LB is stated as a record; the carries and the entries are stated as
integers: they are exact in every state with a canonical buffer. Every entry but X, and at the end of a row WIDTH, reads
as before. -/
def Obligations.PixInDiffuseMode : Prop :=
  ∀ (p : BitVec 8) (s : State) (v l e : Int) (m : Bool),
    s.ph = .run → s.mode = .diffuse → s.params.diffusion = .floydSteinberg → s.lb.wf = true →
    s.x.toNat + 1 ≤ s.params.wMax →
    v = s.c7.toInt + (s.lb.read (s.x.toNat + 1)).toInt →
    l = max 0 (min 255 (p.toNat + Int.tdiv v 16)) →
    m = decide (128 < l) →
    e = l - 255 * (if m then 1 else 0) →
    ∃ t, exec (.pix p) s = .next t ∧
      t = { afterPixel m s with c7 := t.c7, c51 := t.c51, c1 := t.c1, lb := t.lb } ∧
      t.c7.toInt = (if atRowEnd s then 0 else 7 * e) ∧
      t.c51.toInt = (if atRowEnd s then 0 else 5 * e + s.c1.toInt) ∧
      t.c1.toInt = (if atRowEnd s then 0 else e) ∧
      (t.lb.read s.x.toNat).toInt = 3 * e + s.c51.toInt ∧
      (atRowEnd s → (t.lb.read s.width.toNat).toInt = 5 * e + s.c1.toInt) ∧
      (∀ i, i ≠ s.x.toNat → ¬ (atRowEnd s ∧ i = s.width.toNat) → t.lb.read i = s.lb.read i) ∧
      t.lb.wf = true

/-- 43_error_diffusion.md R150 (log entry 7): PIX in MODE 1 under another algorithm completes with what the algorithm
answers, and everything but the carries and LB is as under any algorithm. -/
def Obligations.PixUnderAnotherDiffusion : Prop :=
  ∀ (p : BitVec 8) (s : State) (k : Nat) (o : DiffusionOutput),
    s.ph = .run → s.mode = .diffuse → s.params.diffusion = .other k → s.x.toNat + 1 ≤ s.params.wMax →
    o = Config.otherDiffusion k
      { c7 := s.c7, c51 := s.c51, c1 := s.c1, lb := (List.range (s.params.wMax + 1)).map s.lb.read, x := s.x,
        width := s.width, lum := p } →
    exec (.pix p) s = .next { afterPixel o.m s with
      c7 := if atRowEnd s then 0#11 else o.c7
      c51 := if atRowEnd s then 0#11 else o.c51
      c1 := if atRowEnd s then 0#9 else o.c1
      lb := s.lb.writeAll s.params.wMax o.writes }

/-- 60_exceptions.md R182: which commands raise EncodingError, and that nothing else does. -/
def Obligations.EncodingErrorExactlyOutOfPhase : Prop :=
  (∀ (i : Instr) (s : State), i.wellFormed = true →
    (s.ph = .run ∧ (isConfiguration i = true ∨ i = .start)) ∨ (s.ph = .idle ∧ ∃ p, i = .pix p) →
    exec i s = .next { s with errcode := some .encodingError, ph := .err }) ∧
  (∀ (i : Instr) (s t : State), exec i s = .next t → t.errcode = some .encodingError →
    s.errcode ≠ some .encodingError →
    (s.ph = .run ∧ (isConfiguration i = true ∨ i = .start)) ∨ (s.ph = .idle ∧ ∃ p, i = .pix p))

/-! ### Faults -/

/-- 60_exceptions.md R186: taking a fault writes ERRCODE and PH and nothing else. -/
def Obligations.FaultEntryWritesTwoRegisters : Prop :=
  ∀ s t : State, step s = .next t → s.ph ≠ .err → t.ph = .err →
    ∃ e, t = { s with input := s.input.tail, errcode := some e, ph := .err }

/-- 60_exceptions.md R191: in ERR every word but 0xF000 is ignored. -/
def Obligations.ErrIgnoresAllButRst : Prop :=
  ∀ (s : State) (w : Word) (rest : List HostEvent), s.ph = .err → s.input = .command w :: rest → w ≠ 0xF000#16 →
    step s = .next { s with input := rest }

/-- 60_exceptions.md R192: the only way out of ERR is a reset, and it restores every register to its reset value. -/
def Obligations.OnlyResetLeavesErr : Prop :=
  ∀ s t : State, s.ph = .err → step s = .next t → t.ph ≠ .err →
    (∃ rest, s.input = .resetPin :: rest ∨ s.input = .command 0xF000#16 :: rest) ∧
    t = { State.reset with
      params := s.params, input := s.input.tail, bytes := s.bytes, pixels := s.pixels, lb := t.lb,
      resets := s.resets + 1 }

/-! ### Invariants -/

/-- 10_state.md R35: the invariant holds after reset. -/
def Obligations.InvariantAtReset : Prop := Inv State.reset

/-- 10_state.md R35: every step keeps the invariant. -/
def Obligations.EveryStepKeepsInvariant : Prop :=
  ∀ s t : State, Inv s → step s = .next t → Inv t

/-- 20_memory.md R52, 60_exceptions.md R180: in a state that satisfies the invariant a step answers a next state; the
model's line-buffer fault and its refusal are never reached. -/
def Obligations.StepNeverStops : Prop :=
  ∀ s : State, Inv s → ∃ t, step s = .next t

/-- 10_state.md R35 (vi): during a frame the number of bytes emitted since its START is
`1 + Y × ceil8(WIDTH) + X div 8`, and after its last pixel `1 + HEIGHT × ceil8(WIDTH)`. -/
def Obligations.BytesEmittedSinceStart : Prop :=
  (∀ s t : State, s.ph = .idle → GoodGeometry s → exec .start s = .next t → bytesSince s.bytes.length t) ∧
  (∀ (n0 : Nat) (p : BitVec 8) (s t : State), Inv s → s.ph = .run → bytesSince n0 s → exec (.pix p) s = .next t →
    (t.ph = .run → bytesSince n0 t) ∧
    (t.ph = .idle → t.bytes.length = n0 + (1 + t.height.toNat * stride t.width.toNat) ∧ bytesSince n0 t))

/-- 43_error_diffusion.md R148: the ranges of every quantity of MODE 1 under the decided algorithm: START makes them hold,
and a PIX keeps them. -/
def Obligations.DiffusionStaysInRange : Prop :=
  (∀ s t : State, s.ph = .idle → GoodGeometry s → exec .start s = .next t → InRanges t) ∧
  ∀ (p : BitVec 8) (s t : State),
    InRanges s → s.lb.wf = true → s.ph = .run → s.mode = .diffuse → s.params.diffusion = .floydSteinberg →
    exec (.pix p) s = .next t →
    InRanges t ∧
    (-2016 ≤ incomingError s ∧ incomingError s ≤ 2048) ∧
    (-126 ≤ tdiv16 (incomingError s) ∧ tdiv16 (incomingError s) ≤ 128) ∧
    (-126 ≤ p.toNat + tdiv16 (incomingError s) ∧ p.toNat + tdiv16 (incomingError s) ≤ 383) ∧
    (0 ≤ correctedLum p (incomingError s) ∧ correctedLum p (incomingError s) ≤ 255) ∧
    (if diffuseBit (correctedLum p (incomingError s)) then
      129 ≤ correctedLum p (incomingError s) ∧ -126 ≤ quantError (correctedLum p (incomingError s)) ∧
        quantError (correctedLum p (incomingError s)) ≤ 0
     else correctedLum p (incomingError s) ≤ 128 ∧ 0 ≤ quantError (correctedLum p (incomingError s)) ∧
        quantError (correctedLum p (incomingError s)) ≤ 128)

/-- 43_error_diffusion.md R144, 10_state.md R30: the carries and the line buffer hold the shares of the picture's errors
at every pixel of a MODE 1 frame under the decided algorithm: START makes it so, every PIX of the picture keeps it and
emits the bit of R142. -/
def Obligations.DiffusionTracksThePicture : Prop :=
  ∀ lum : Nat → Nat → Byte,
    (∀ s t : State, s.ph = .idle → GoodGeometry s → exec .start s = .next t → DiffusionTracks lum t) ∧
    (∀ s t : State, Inv s → s.ph = .run → s.mode = .diffuse → s.params.diffusion = .floydSteinberg →
      DiffusionTracks lum s → exec (.pix (lum s.y.toNat s.x.toNat)) s = .next t →
      t.pixels = s.pixels ++ [pixelRecord (diffusedBit s.width.toNat lum s.y.toNat s.x.toNat) s.bg] ∧
      (t.ph = .run → DiffusionTracks lum t))

/-- 43_error_diffusion.md R142: the errors of the reference picture satisfy the rule's equation: the error of every pixel
inside the frame is that of its luminance corrected by the four shares it receives, and outside the frame it is 0. -/
def Obligations.PictureErrorsSatisfyTheEquation : Prop :=
  ∀ (w : Nat) (lum : Nat → Nat → Byte),
    (∀ x y : Nat, x < w → errorAt w lum x y = pixelError (lum y x) (incomingAt w lum x y)) ∧
    (∀ x y : Int, x < 0 ∨ (w : Int) ≤ x ∨ y < 0 → errorAt w lum x y = 0)

/-! ### Emissions -/

/-- 30_encoding.md R83: what a step can emit, by command. -/
def Obligations.EmissionsByCommand : Prop :=
  ∀ (i : Instr) (s t : State), exec i s = .next t →
    (isConfiguration i = true ∨ i = .rst → nothingEmitted s t) ∧
    (s.ph = .err → nothingEmitted s t) ∧
    (i = .start → (t.ph = .run ∧ s.ph = .idle → t.bytes = s.bytes ++ [0x00#8] ∧ t.pixels = s.pixels) ∧
      (t.ph ≠ .run → nothingEmitted s t)) ∧
    (∀ p, i = .pix p → (s.ph = .run → (∃ r, t.pixels = s.pixels ++ [r]) ∧
        (if s.bc = 7#3 ∨ s.x.toNat + 1 = s.width.toNat then ∃ b, t.bytes = s.bytes ++ [b] else t.bytes = s.bytes)) ∧
      (s.ph ≠ .run → nothingEmitted s t))

/-- 60_exceptions.md R187, 70_reset_and_hazards.md R218: what has been emitted stays emitted, over any run. -/
def Obligations.EmissionsAreNeverRetracted : Prop :=
  ∀ (n : Nat) (s t : State), runSteps n s = .next t → s.bytes <+: t.bytes ∧ s.pixels <+: t.pixels

/-- 30_encoding.md R88, 44_preview_and_packer.md R161: the records a PIX can emit are three words, and BG selects between
the two colours of an on pixel. -/
def Obligations.PixelRecordsAreThreeWords : Prop :=
  ∀ (p : BitVec 8) (s t : State), s.ph = .run → exec (.pix p) s = .next t →
    ∃ r, t.pixels = s.pixels ++ [r] ∧
      (r.word = 0x0000000#25 ∨ (s.bg = false ∧ r.word = 0x1FFFFFF#25) ∨ (s.bg = true ∧ r.word = 0x1FF8200#25))

/-- 44_preview_and_packer.md R165 to R167: the payload bit of a pixel is its inverted record bit, at position `7 - BC` of
the byte under construction, which keeps the bits placed before; a flushed byte is emitted with zeros below. -/
def Obligations.PackerPlacesBitsFromTheTop : Prop :=
  ∀ (p : BitVec 8) (s t : State), Inv s → s.ph = .run → exec (.pix p) s = .next t →
    ∃ (r : PixelRecord) (b : Byte), t.pixels = s.pixels ++ [r] ∧
      b.getLsbD (7 - s.bc.toNat) = !r.m ∧
      (∀ j, j < 8 → 7 - s.bc.toNat < j → b.getLsbD j = s.sr.getLsbD j) ∧
      (∀ j, j < 7 - s.bc.toNat → b.getLsbD j = false) ∧
      (if s.bc = 7#3 ∨ s.x.toNat + 1 = s.width.toNat then t.bytes = s.bytes ++ [b] ∧ t.sr = 0#8 ∧ t.bc = 0#3
       else t.bytes = s.bytes ∧ t.sr = b ∧ t.bc.toNat = s.bc.toNat + 1)

/-- 10_state.md R25: the status pins are PH in bits 1:0, DONE in bit 2 and ERRCODE in bits 4:3, the codes of PH and ERRCODE
written out (R20, R26, R29; 60_exceptions.md R180). -/
def Obligations.StatusPinsShowTheFlags : Prop :=
  ∀ s : State,
    ((statusPins s).extractLsb' 0 2 = 0#2 ↔ s.ph = .idle) ∧
    ((statusPins s).extractLsb' 0 2 = 1#2 ↔ s.ph = .run) ∧
    ((statusPins s).extractLsb' 0 2 = 2#2 ↔ s.ph = .err) ∧
    (statusPins s).extractLsb' 0 2 ≠ 3#2 ∧
    ((statusPins s).getLsbD 2 = true ↔ s.done = true) ∧
    ((statusPins s).extractLsb' 3 2 = 0#2 ↔ s.errcode = none) ∧
    ((statusPins s).extractLsb' 3 2 = 1#2 ↔ s.errcode = some .invalidGeometry) ∧
    ((statusPins s).extractLsb' 3 2 = 2#2 ↔ s.errcode = some .encodingError) ∧
    ((statusPins s).extractLsb' 3 2 = 3#2 ↔ s.errcode = some .illegalCommand)

/-- 10_state.md R28: DONE rises only in the PIX of a frame's last pixel and falls only in a START or a reset. -/
def Obligations.DoneChangesOnlyAtFrameBounds : Prop :=
  ∀ (i : Instr) (s t : State), exec i s = .next t →
    (s.done = false → t.done = true → (∃ p, i = .pix p) ∧ s.ph = .run ∧ atFrameEnd s ∧ t.ph = .idle) ∧
    (s.done = true → t.done = false → i = .rst ∨ (i = .start ∧ s.ph = .idle ∧ t.ph = .run))

/-- 20_memory.md R68, 10_state.md R21 to R24, 00_scope.md R6: during a frame no command but RST changes the
configuration, and no step ever changes the parameters. -/
def Obligations.ConfigurationConstantInFrame : Prop :=
  (∀ (i : Instr) (s t : State), s.ph = .run → i ≠ .rst → exec i s = .next t →
    t.width = s.width ∧ t.height = s.height ∧ t.thresh = s.thresh ∧ ctrl t = ctrl s) ∧
  (∀ s t : State, step s = .next t → t.params = s.params)

/-! ### Whole frames -/

/-- 20_memory.md R55 to R59, 44_preview_and_packer.md R160, R169, R170: a whole frame, in every mode and under every
diffusion: one record for each pixel, and the bytes emitted are exactly the BitmapPayload of the records' bits, of length
`1 + HEIGHT × ceil8(WIDTH)`. -/
def Obligations.FrameEmitsItsPayload : Prop :=
  ∀ (s : State) (pixels : List Byte) (rest : List HostEvent), FrameReady s pixels rest →
    ∃ (t : State) (records : List PixelRecord),
      runSteps (1 + pixels.length) s = .next t ∧
      records.length = pixels.length ∧
      t.pixels = s.pixels ++ records ∧
      t.bytes = s.bytes ++ payloadOf s.width.toNat s.height.toNat
        (fun y x => (records[y * s.width.toNat + x]?).elim false PixelRecord.m) ∧
      t.bytes.length = s.bytes.length + (1 + s.height.toNat * stride s.width.toNat) ∧
      t.ph = .idle ∧ t.done = true ∧ t.x = 0#12 ∧ t.y = s.height ∧ t.input = rest

/-- 20_memory.md R60: the payload of a frame gives back exactly the monochrome picture that produced it. -/
def Obligations.PayloadGivesBackThePicture : Prop :=
  ∀ (s t : State) (pixels : List Byte) (rest : List HostEvent), FrameReady s pixels rest →
    runSteps (1 + pixels.length) s = .next t →
    ∀ x y, x < s.width.toNat → y < s.height.toNat →
      ∃ r, t.pixels[s.pixels.length + (y * s.width.toNat + x)]? = some r ∧
        unpackBit (t.bytes.drop s.bytes.length) s.width.toNat x y = r.m

/-- 42_quantizer.md R130, R133: the records of a whole frame in MODE 0 and in MODE 2, as functions of the picture. -/
def Obligations.PlainFramesFollowTheComparator : Prop :=
  ∀ (s t : State) (pixels : List Byte) (rest : List HostEvent), FrameReady s pixels rest →
    runSteps (1 + pixels.length) s = .next t →
    (s.mode = .threshold → t.pixels = s.pixels ++ rasterRecords s.width.toNat s.height.toNat
      (fun y x => decide (s.thresh.toNat ≤ (lumAt pixels s.width.toNat y x).toNat)) s.bg) ∧
    (s.mode = .ordered → t.pixels = s.pixels ++ rasterRecords s.width.toNat s.height.toNat
      (fun y x => decide ((ordThreshold s.params.ordMap x y).toNat ≤ (lumAt pixels s.width.toNat y x).toNat)) s.bg)

/-- 43_error_diffusion.md R142: the records of a whole frame in MODE 1 under the decided algorithm are those of the
picture's error diffusion: the machine with its three carries and one line buffer computes what the equation over the
whole picture says. -/
def Obligations.DiffuseFramesFollowTheEquation : Prop :=
  ∀ (s t : State) (pixels : List Byte) (rest : List HostEvent), FrameReady s pixels rest →
    s.mode = .diffuse → s.params.diffusion = .floydSteinberg → runSteps (1 + pixels.length) s = .next t →
    t.pixels = s.pixels ++ rasterRecords s.width.toNat s.height.toNat
      (diffusedBit s.width.toNat (lumAt pixels s.width.toNat)) s.bg

/-- 43_error_diffusion.md R151: frames of luminance 255 everywhere and of luminance 0 everywhere in MODE 1 under the
decided algorithm: every record on, every record off. -/
def Obligations.UniformDiffuseFrames : Prop :=
  ∀ (s t : State) (n : Nat) (rest : List HostEvent), s.mode = .diffuse → s.params.diffusion = .floydSteinberg →
    (FrameReady s (List.replicate n 255#8) rest → runSteps (1 + n) s = .next t →
      t.pixels = s.pixels ++ List.replicate n (pixelRecord true s.bg) ∧
      t.bytes = s.bytes ++ List.replicate (1 + s.height.toNat * stride s.width.toNat) 0x00#8 ∧ t.lb = LineBuffer.zero) ∧
    (FrameReady s (List.replicate n 0#8) rest → runSteps (1 + n) s = .next t →
      t.pixels = s.pixels ++ List.replicate n (pixelRecord false s.bg) ∧
      t.bytes = s.bytes ++ payloadOf s.width.toNat s.height.toNat (fun _ _ => false) ∧ t.lb = LineBuffer.zero)

/-- 42_quantizer.md R131: raising the threshold keeps every pixel of a frame that is off, so it never lowers the foreground
count. -/
def Obligations.RaisingThresholdKeepsForeground : Prop :=
  ∀ (s t u : State) (t1 t2 : Byte) (pixels : List Byte) (rest : List HostEvent), FrameReady s pixels rest →
    s.mode = .threshold → t1.toNat < t2.toNat →
    runSteps (1 + pixels.length) { s with thresh := t1 } = .next t →
    runSteps (1 + pixels.length) { s with thresh := t2 } = .next u →
    (∀ i : Nat, (t.pixels.drop s.pixels.length)[i]? = some (pixelRecord false s.bg) →
      (u.pixels.drop s.pixels.length)[i]? = some (pixelRecord false s.bg)) ∧
    foregroundCount (t.pixels.drop s.pixels.length) ≤ foregroundCount (u.pixels.drop s.pixels.length)

/-- 42_quantizer.md R133: whatever the map, luminance 0 is off and luminance 255 is on at every position of MODE 2. -/
def Obligations.OrderedKeepsBlackAndWhite : Prop :=
  ∀ (s t : State), s.params.wf = true → s.ph = .run → s.mode = .ordered →
    (exec (.pix 0#8) s = .next t → t.pixels = s.pixels ++ [{ m := false, rgb := 0x000000#24 }]) ∧
    (exec (.pix 255#8) s = .next t → t.pixels = s.pixels ++ [{ m := true, rgb := colourOf true s.bg }])

/-- 42_quantizer.md R134: the default map is `16 × B4 + 8`, and a flat field of luminance `lum` turns on `(lum + 8) / 16`
of the sixteen pixels of a tile of it. -/
def Obligations.DefaultMapOnFlatField : Prop :=
  defaultOrdMap.rows.toList.map (fun row => row.toList.map BitVec.toNat) =
    [[0, 8, 2, 10], [12, 4, 14, 6], [3, 11, 1, 9], [15, 7, 13, 5]].map (fun row => row.map (fun b => 16 * b + 8)) ∧
  ∀ lum : Byte, ((List.range 16).countP
    (fun i => thresholdBit (ordThreshold defaultOrdMap (i % 4) (i / 4)) lum)) = (lum.toNat + 8) / 16

/-- 43_error_diffusion.md R147: the division truncates toward zero. -/
def Obligations.DivisionTruncatesTowardZero : Prop :=
  ∀ v : Int, tdiv16 (-v) = -tdiv16 v ∧ (tdiv16 v).natAbs = v.natAbs / 16 ∧ tdiv16 v = Int.tdiv v 16

/-! ### Two runs -/

/-- 44_preview_and_packer.md R163: BG has no effect but on the colours of the records, over any run of any input, in every
mode and under every diffusion. -/
def Obligations.BackgroundIsCosmetic : Prop :=
  ∀ (n : Nat) (a b : State), SameButPreview a b → outcomesRelated SameButPreview (runSteps n a) (runSteps n b)

/-- 43_error_diffusion.md R149, 42_quantizer.md R133: outside MODE 0 no output of a frame and no other register depends on
THRESH, for any frame of any number of pixels, in MODE 1 under every diffusion. -/
def Obligations.ThresholdIgnoredOutsideThresholdMode : Prop :=
  ∀ (n : Nat) (s : State) (pixels : List Byte) (t : Byte),
    s.mode ≠ .threshold → s.input = frameCommands pixels →
    runSteps n { s with thresh := t } = mapNext (fun u => { u with thresh := t }) (runSteps n s)

/-- 10_state.md R33: the content of LB after a reset is unobservable: two states outside RUN that differ in LB only stay
equal in everything else over any run of any input, and in LB too while a frame runs. -/
def Obligations.BufferAfterResetIsUnobservable : Prop :=
  ∀ (n : Nat) (a b : State), SameButIdleBuffer a b → outcomesRelated SameButIdleBuffer (runSteps n a) (runSteps n b)

/-- 10_state.md R34, 41_frame_control.md R122: what a frame emits is a function of the configuration at its START and of
its own pixels: two blocks with the same configuration, whatever their earlier frames left behind, emit the same. -/
def Obligations.FrameForgetsThePast : Prop :=
  ∀ (n : Nat) (a b : State) (pixels : List Byte),
    SameConfiguration a b → a.ph = .idle → b.ph = .idle → GoodGeometry a →
    a.input = frameCommands pixels → b.input = frameCommands pixels →
    outcomesRelated (fun t u => ∃ (bytes : List Byte) (records : List PixelRecord),
      t.bytes = a.bytes ++ bytes ∧ u.bytes = b.bytes ++ bytes ∧
      t.pixels = a.pixels ++ records ∧ u.pixels = b.pixels ++ records ∧
      u.ph = t.ph ∧ u.done = t.done) (runSteps (n + 1) a) (runSteps (n + 1) b)

/-! ### The assembler -/

/-- 30_encoding.md R86, R87: the assembler never emits an ILLEGAL word but through `.word`, which emits its value; a line
whose operands are in range is the word of its command; an operand out of range is an assembly error in every form. -/
def Obligations.AssemblerEmitsLegalWords : Prop :=
  (∀ (l : AsmLine) (ws : List Word), (∀ n, l ≠ .word n) → assembleLine l = some ws →
    ∀ w ∈ ws, ∃ i, i.wellFormed = true ∧ decode w = .command i) ∧
  (∀ n : Nat, n ≤ 65535 → assembleLine (.word n) = some [BitVec.ofNat 16 n]) ∧
  (∀ n : BitVec 12, assembleLine (.setw n.toNat) = some [encode (.setw n)] ∧
    assembleLine (.seth n.toNat) = some [encode (.seth n)]) ∧
  (∀ n : BitVec 8, assembleLine (.sett n.toNat) = some [encode (.sett n)] ∧
    assembleLine (.pix n.toNat) = some [encode (.pix n)]) ∧
  (∀ (mode : BitVec 2) (bg : Bool), mode ≠ 3#2 →
    assembleLine (.setm mode.toNat bg.toNat) = some [encode (.setm mode bg)]) ∧
  assembleLine .start = some [encode .start] ∧ assembleLine .rst = some [encode .rst] ∧
  (∀ n : Nat, 4095 < n → assembleLine (.setw n) = none ∧ assembleLine (.seth n) = none) ∧
  (∀ n : Nat, 255 < n → assembleLine (.sett n) = none ∧ assembleLine (.pix n) = none) ∧
  (∀ mode bg : Nat, 2 < mode ∨ 1 < bg → assembleLine (.setm mode bg) = none) ∧
  (∀ w h t mode bg : Nat, 4095 < w ∨ 4095 < h ∨ 255 < t ∨ 2 < mode ∨ 1 < bg →
    assembleLine (.config w h t mode bg) = none ∧ ∀ pixels, assembleLine (.frame w h t mode bg pixels) = none) ∧
  (∀ p : Nat, 255 < p → (∀ n, assembleLine (.fill n p) = none) ∧
    ∀ pixels : List Nat, p ∈ pixels → assembleLine (.row pixels) = none ∧
      ∀ w h t mode bg : Nat, assembleLine (.frame w h t mode bg pixels) = none)

/-- 30_encoding.md R87: CONFIG, ROW, FILL and FRAME expand to the commands the rule lists, in its order. -/
def Obligations.PseudoInstructionsExpand : Prop :=
  (∀ (w h : BitVec 12) (t : BitVec 8) (mode : BitVec 2) (bg : Bool), mode ≠ 3#2 →
    assembleLine (.config w.toNat h.toNat t.toNat mode.toNat bg.toNat) =
      some [encode (.setw w), encode (.seth h), encode (.sett t), encode (.setm mode bg)]) ∧
  (∀ ps : List (BitVec 8), ps ≠ [] →
    assembleLine (.row (ps.map BitVec.toNat)) = some (ps.map (fun p => encode (.pix p)))) ∧
  (∀ (n : Nat) (p : BitVec 8), assembleLine (.fill n p.toNat) = some (List.replicate n (encode (.pix p)))) ∧
  (∀ (w h : BitVec 12) (t : BitVec 8) (mode : BitVec 2) (bg : Bool) (ps : List (BitVec 8)), mode ≠ 3#2 →
    ps.length = w.toNat * h.toNat →
    assembleLine (.frame w.toNat h.toNat t.toNat mode.toNat bg.toNat (ps.map BitVec.toNat)) =
      some ([encode (.setw w), encode (.seth h), encode (.sett t), encode (.setm mode bg), encode .start] ++
        ps.map (fun p => encode (.pix p))))
end

