-- ==== Sys2Proof/Laws/Arith.lean ====
section
/-! SUPPORT. Bounds of the integer functions of MODE 1 (43_error_diffusion.md R147, R148): what the registers receive fits
them in every state. -/

namespace Sys2Proof.Machine

theorem clip8_range (v : Int) : 0 ≤ clip8 v ∧ clip8 v ≤ 255 := by
  unfold clip8
  split
  · omega
  · split <;> omega

theorem correctedLum_range (lum : Byte) (v : Int) : 0 ≤ correctedLum lum v ∧ correctedLum lum v ≤ 255 := clip8_range _

theorem quantError_range {l : Int} (h0 : 0 ≤ l) (h1 : l ≤ 255) : -126 ≤ quantError l ∧ quantError l ≤ 128 := by
  unfold quantError diffuseBit cutoff
  split
  · have := of_decide_eq_true ‹decide ((128 : Int) < l) = true›
    omega
  · have := of_decide_eq_false (Bool.eq_false_iff.mpr ‹¬decide ((128 : Int) < l) = true›)
    omega

/-- A signed register of `w + 1` bits holds exactly an integer in its range. -/
theorem toInt_ofInt_exact {w : Nat} {v : Int} (h0 : -(2 ^ w : Nat) ≤ v) (h1 : v < (2 ^ w : Nat)) :
    (BitVec.ofInt (w + 1) v).toInt = v := by
  rw [BitVec.toInt_ofInt]
  have h2 : ((2 ^ (w + 1) : Nat) : Int) = 2 * (2 ^ w : Nat) := by push_cast; ring
  apply Int.bmod_eq_of_le
  · omega
  · omega

/-- C1 and C7 receive their values exactly (43_error_diffusion.md R148). -/
theorem c1_exact {e : Int} (h0 : -126 ≤ e) (h1 : e ≤ 128) : (BitVec.ofInt 9 e).toInt = e :=
  toInt_ofInt_exact (w := 8) (by norm_num; omega) (by norm_num; omega)

theorem c7_exact {e : Int} (h0 : -126 ≤ e) (h1 : e ≤ 128) : (BitVec.ofInt 11 (7 * e)).toInt = 7 * e :=
  toInt_ofInt_exact (w := 10) (by norm_num; omega) (by norm_num; omega)

/-- C51 receives its value exactly whatever C1 holds. -/
theorem c51_exact {e : Int} (h0 : -126 ≤ e) (h1 : e ≤ 128) (c1 : BitVec 9) :
    (BitVec.ofInt 11 (5 * e + c1.toInt)).toInt = 5 * e + c1.toInt := by
  have := c1.toInt_lt
  have := c1.le_toInt
  exact toInt_ofInt_exact (w := 10) (by norm_num at *; omega) (by norm_num at *; omega)

/-- An LB entry receives its value exactly whatever C51 holds. -/
theorem entry_exact {e : Int} (h0 : -126 ≤ e) (h1 : e ≤ 128) (c51 : BitVec 11) :
    (BitVec.ofInt 12 (3 * e + c51.toInt)).toInt = 3 * e + c51.toInt := by
  have := c51.toInt_lt
  have := c51.le_toInt
  exact toInt_ofInt_exact (w := 11) (by norm_num at *; omega) (by norm_num at *; omega)

/-- The last entry of a row receives C51 exactly. -/
theorem last_entry_exact (c51 : BitVec 11) : (BitVec.ofInt 12 c51.toInt).toInt = c51.toInt := by
  have := c51.toInt_lt
  have := c51.le_toInt
  exact toInt_ofInt_exact (w := 11) (by norm_num at *; omega) (by norm_num at *; omega)

end Sys2Proof.Machine
end

