-- ==== Sys2Proof/Laws/Assembler.lean ====
section
/-! SUPPORT. What the shared operations of the assembler can answer. -/

namespace Sys2Proof.Machine

section WordIf
variable {inRange : Bool} {i : Instr}

@[simp] theorem wordIf_true : wordIf true i = some [encode i] := rfl

@[simp] theorem wordIf_false : wordIf false i = none := rfl

/-- Everything `wordIf` can answer with words. -/
theorem wordIf_eq_some {ws : List Word} : wordIf inRange i = some ws ↔ inRange = true ∧ ws = [encode i] := by
  cases inRange <;> simp [eq_comm]

theorem wordIf_eq_none : wordIf inRange i = none ↔ inRange = false := by cases inRange <;> simp

end WordIf

section JoinWords
variable {parts : List (Option (List Word))}

@[simp] theorem joinWords_nil : joinWords [] = some [] := rfl

@[simp] theorem joinWords_none_cons : joinWords (none :: parts) = none := rfl

@[simp] theorem joinWords_some_cons (ws : List Word) :
    joinWords (some ws :: parts) = (joinWords parts).map (ws ++ ·) := rfl

/-- Everything `joinWords` can answer with words: every part has its words, and they are joined in order. -/
theorem joinWords_eq_some {ws : List Word} :
    joinWords parts = some ws ↔ ∃ wss : List (List Word), parts = wss.map some ∧ ws = wss.flatten := by
  induction parts generalizing ws with
  | nil =>
    constructor
    · intro h
      cases h
      exact ⟨[], rfl, rfl⟩
    · rintro ⟨wss, h, rfl⟩
      rw [List.map_eq_nil_iff.mp h.symm]
      rfl
  | cons part parts ih =>
    constructor
    · intro h
      cases part with
      | none => cases h
      | some vs =>
        obtain ⟨_, hr, rfl⟩ := Option.map_eq_some_iff.mp h
        obtain ⟨wss, rfl, rfl⟩ := ih.mp hr
        exact ⟨vs :: wss, rfl, rfl⟩
    · rintro ⟨wss, h, rfl⟩
      obtain ⟨vs, rest, rfl, rfl, rfl⟩ := List.map_eq_cons_iff.mp h.symm
      simp [ih.mpr ⟨rest, rfl, rfl⟩]

/-- One part in error makes the whole an error. -/
theorem joinWords_eq_none (h : none ∈ parts) : joinWords parts = none := by
  cases hj : joinWords parts with
  | none => rfl
  | some ws =>
    obtain ⟨wss, rfl, -⟩ := joinWords_eq_some.mp hj
    simp at h

end JoinWords

end Sys2Proof.Machine
end

