-- ==== Sys2Proof/Laws/LineBuffer.lean ====
section
/-! SUPPORT. The line buffer: a read after a write, and the canonical form, which every operation keeps. -/

namespace Sys2Proof.Machine

/-- Indices strictly rising. -/
def Rising (cells : List (Nat × Entry)) : Prop := (cells.map Prod.fst).Pairwise (· < ·)

theorem Rising.tail {c : Nat × Entry} {cells : List (Nat × Entry)} (h : Rising (c :: cells)) : Rising cells :=
  (List.pairwise_cons.mp h).2

theorem Rising.head_lt {c : Nat × Entry} {cells : List (Nat × Entry)} (h : Rising (c :: cells)) :
    ∀ d ∈ cells, c.1 < d.1 :=
  fun _ hd => (List.pairwise_cons.mp h).1 _ (List.mem_map_of_mem hd)

theorem Rising.cons {c : Nat × Entry} {cells : List (Nat × Entry)} (h : Rising cells) (hc : ∀ d ∈ cells, c.1 < d.1) :
    Rising (c :: cells) :=
  List.pairwise_cons.mpr ⟨by simpa using fun a b hab => hc (a, b) hab, h⟩

theorem wf_iff (lb : LineBuffer) :
    lb.wf = true ↔ Rising lb.cells ∧ ∀ c ∈ lb.cells, c.2 ≠ lb.fill.value c.1 := by
  simp [LineBuffer.wf, Rising]

/-! ### The list operations -/

theorem findCell_none {cells : List (Nat × Entry)} {i : Nat} (h : ∀ d ∈ cells, d.1 ≠ i) : findCell cells i = none := by
  induction cells with
  | nil => rfl
  | cons c rest ih =>
    obtain ⟨j, u⟩ := c
    have hj : j ≠ i := h (j, u) List.mem_cons_self
    have hr := ih (fun d hd => h d (List.mem_cons_of_mem _ hd))
    simp [findCell, hr, Ne.symm hj]

@[simp] theorem findCell_putCell_same (cells : List (Nat × Entry)) (i : Nat) (v : Entry) :
    findCell (putCell cells i v) i = some v := by
  induction cells with
  | nil => simp [putCell, findCell]
  | cons c rest ih =>
    obtain ⟨j, u⟩ := c
    unfold putCell
    split
    · simp [findCell]
    · split
      · simp [findCell]
      · simp [findCell, *]

theorem findCell_putCell_other (cells : List (Nat × Entry)) {i k : Nat} (v : Entry) (h : k ≠ i) :
    findCell (putCell cells i v) k = findCell cells k := by
  induction cells with
  | nil => simp [putCell, findCell, h]
  | cons c rest ih =>
    obtain ⟨j, u⟩ := c
    unfold putCell
    split
    · simp [findCell, h]
    · split
      · subst_vars
        simp [findCell, h]
      · simp [findCell, ih]

theorem findCell_dropCell_same {cells : List (Nat × Entry)} (hr : Rising cells) (i : Nat) :
    findCell (dropCell cells i) i = none := by
  induction cells with
  | nil => rfl
  | cons c rest ih =>
    obtain ⟨j, u⟩ := c
    unfold dropCell
    split
    · subst_vars
      exact findCell_none (fun d hd => Nat.ne_of_gt (hr.head_lt d hd))
    · simp [findCell, *, ih hr.tail]

theorem findCell_dropCell_other (cells : List (Nat × Entry)) {i k : Nat} (h : k ≠ i) :
    findCell (dropCell cells i) k = findCell cells k := by
  induction cells with
  | nil => rfl
  | cons c rest ih =>
    obtain ⟨j, u⟩ := c
    unfold dropCell
    split
    · subst_vars
      simp [findCell, h]
    · simp [findCell, ih]

theorem mem_putCell {cells : List (Nat × Entry)} {i : Nat} {v : Entry} {c : Nat × Entry}
    (h : c ∈ putCell cells i v) : c = (i, v) ∨ c ∈ cells := by
  induction cells with
  | nil => simpa [putCell] using h
  | cons d rest ih =>
    obtain ⟨j, u⟩ := d
    unfold putCell at h
    split at h
    · simpa using h
    · split at h
      · rcases List.mem_cons.mp h with h | h
        · exact .inl h
        · exact .inr (List.mem_cons_of_mem _ h)
      · rcases List.mem_cons.mp h with h | h
        · exact .inr (h ▸ List.mem_cons_self)
        · exact (ih h).imp_right (List.mem_cons_of_mem _)

theorem mem_dropCell {cells : List (Nat × Entry)} {i : Nat} {c : Nat × Entry} (h : c ∈ dropCell cells i) :
    c ∈ cells := by
  induction cells with
  | nil => simp [dropCell] at h
  | cons d rest ih =>
    obtain ⟨j, u⟩ := d
    unfold dropCell at h
    split at h
    · exact List.mem_cons_of_mem _ h
    · rcases List.mem_cons.mp h with h | h
      · exact h ▸ List.mem_cons_self
      · exact List.mem_cons_of_mem _ (ih h)

theorem putCell_rising {cells : List (Nat × Entry)} (hr : Rising cells) (i : Nat) (v : Entry) :
    Rising (putCell cells i v) := by
  induction cells with
  | nil => simp [putCell, Rising]
  | cons d rest ih =>
    obtain ⟨j, u⟩ := d
    unfold putCell
    split
    · refine hr.cons (fun d hd => ?_)
      rcases List.mem_cons.mp hd with rfl | hd
      · assumption
      · exact lt_trans ‹i < j› (hr.head_lt d hd)
    · split
      · subst_vars
        exact hr.tail.cons (fun d hd => hr.head_lt d hd)
      · refine (ih hr.tail).cons (fun d hd => ?_)
        rcases mem_putCell hd with rfl | hd
        · simp only
          omega
        · exact hr.head_lt d hd

theorem dropCell_rising {cells : List (Nat × Entry)} (hr : Rising cells) (i : Nat) : Rising (dropCell cells i) := by
  induction cells with
  | nil => simpa [dropCell] using hr
  | cons d rest ih =>
    obtain ⟨j, u⟩ := d
    unfold dropCell
    split
    · exact hr.tail
    · exact (ih hr.tail).cons (fun d hd => hr.head_lt d (mem_dropCell hd))

/-! ### Reads and writes -/

@[simp] theorem write_fill (lb : LineBuffer) (i : Nat) (v : Entry) : (lb.write i v).fill = lb.fill := by
  unfold LineBuffer.write
  split <;> rfl

theorem read_write_same {lb : LineBuffer} (h : lb.wf = true) (i : Nat) (v : Entry) : (lb.write i v).read i = v := by
  have hr := ((wf_iff lb).mp h).1
  unfold LineBuffer.write
  split
  · subst_vars
    simp [LineBuffer.read, findCell_dropCell_same hr]
  · simp [LineBuffer.read]

theorem read_write_other (lb : LineBuffer) {i k : Nat} (v : Entry) (h : k ≠ i) : (lb.write i v).read k = lb.read k := by
  unfold LineBuffer.write
  split
  · simp [LineBuffer.read, findCell_dropCell_other lb.cells h]
  · simp [LineBuffer.read, findCell_putCell_other lb.cells v h]

/-- Every write keeps the canonical form. -/
theorem write_wf {lb : LineBuffer} (h : lb.wf = true) (i : Nat) (v : Entry) : (lb.write i v).wf = true := by
  obtain ⟨hr, hne⟩ := (wf_iff lb).mp h
  rw [wf_iff, write_fill]
  unfold LineBuffer.write
  split
  · exact ⟨dropCell_rising hr i, fun c hc => hne c (mem_dropCell hc)⟩
  · refine ⟨putCell_rising hr i v, fun c hc => ?_⟩
    rcases mem_putCell hc with rfl | hc
    · assumption
    · exact hne c hc

/-- A write lists no index but its own. -/
theorem mem_write {lb : LineBuffer} {i : Nat} {v : Entry} {c : Nat × Entry} (h : c ∈ (lb.write i v).cells) :
    c.1 = i ∨ c ∈ lb.cells := by
  unfold LineBuffer.write at h
  split at h
  · exact .inr (mem_dropCell h)
  · exact (mem_putCell h).imp_left (congrArg Prod.fst ·)

/-- Reading after a START gives 0 (41_frame_control.md R122). -/
theorem read_zero (i : Nat) : LineBuffer.zero.read i = 0#12 := rfl

@[simp] theorem zero_wf : LineBuffer.zero.wf = true := rfl

@[simp] theorem unspecified_wf (n : Nat) : (LineBuffer.unspecified n).wf = true := rfl

/-- Reading after a reset gives the free value of that reset. -/
theorem read_unspecified (n i : Nat) : (LineBuffer.unspecified n).read i = Config.lbAfterReset n i := rfl

@[simp] theorem writeAll_fill (lb : LineBuffer) (n : Nat) (ws : List (Nat × Entry)) : (lb.writeAll n ws).fill = lb.fill := by
  induction ws generalizing lb with
  | nil => rfl
  | cons w rest ih =>
    obtain ⟨i, v⟩ := w
    unfold LineBuffer.writeAll
    split
    · rw [ih, write_fill]
    · exact ih lb

theorem writeAll_wf {lb : LineBuffer} (h : lb.wf = true) (n : Nat) (ws : List (Nat × Entry)) :
    (lb.writeAll n ws).wf = true := by
  induction ws generalizing lb with
  | nil => exact h
  | cons w rest ih =>
    obtain ⟨i, v⟩ := w
    unfold LineBuffer.writeAll
    split
    · exact ih (write_wf h i v)
    · exact ih h

/-- Several writes list no index above `n` that was not listed before. -/
theorem mem_writeAll {lb : LineBuffer} {n : Nat} {ws : List (Nat × Entry)} {c : Nat × Entry}
    (h : c ∈ (lb.writeAll n ws).cells) : c.1 ≤ n ∨ c ∈ lb.cells := by
  induction ws generalizing lb with
  | nil => exact .inr h
  | cons w rest ih =>
    obtain ⟨i, v⟩ := w
    unfold LineBuffer.writeAll at h
    split at h
    · rcases ih h with h | h
      · exact .inl h
      · exact (mem_write h).imp_left (fun e => le_of_eq_of_le e ‹i ≤ n›)
    · exact ih h

/-- A canonical buffer that START has cleared and that reads 0 everywhere is `LineBuffer.zero`. -/
theorem eq_zero_of_reads {lb : LineBuffer} (h : lb.wf = true) (hf : lb.fill = .zero) (h0 : ∀ i, lb.read i = 0#12) :
    lb = LineBuffer.zero := by
  obtain ⟨hr, hne⟩ := (wf_iff lb).mp h
  obtain ⟨cells, fill⟩ := lb
  cases cells with
  | nil => simp_all [LineBuffer.zero]
  | cons c rest =>
    have h1 := h0 c.1
    have h2 := hne c List.mem_cons_self
    simp only at hf
    subst hf
    simp [LineBuffer.read, findCell] at h1
    exact absurd h1 h2

end Sys2Proof.Machine
end

