-- ==== Sys2Proof/Laws/State.lean ====
section
/-! SUPPORT. One lemma for each field of each plain update, true by rfl: no later proof unfolds a record update. -/

namespace Sys2Proof.Machine

/-! ### `emitByte` -/

@[simp] theorem emitByte_width (b : Byte) (s : State) : (emitByte b s).width = s.width := rfl
@[simp] theorem emitByte_height (b : Byte) (s : State) : (emitByte b s).height = s.height := rfl
@[simp] theorem emitByte_thresh (b : Byte) (s : State) : (emitByte b s).thresh = s.thresh := rfl
@[simp] theorem emitByte_mode (b : Byte) (s : State) : (emitByte b s).mode = s.mode := rfl
@[simp] theorem emitByte_bg (b : Byte) (s : State) : (emitByte b s).bg = s.bg := rfl
@[simp] theorem emitByte_ph (b : Byte) (s : State) : (emitByte b s).ph = s.ph := rfl
@[simp] theorem emitByte_x (b : Byte) (s : State) : (emitByte b s).x = s.x := rfl
@[simp] theorem emitByte_y (b : Byte) (s : State) : (emitByte b s).y = s.y := rfl
@[simp] theorem emitByte_done (b : Byte) (s : State) : (emitByte b s).done = s.done := rfl
@[simp] theorem emitByte_errcode (b : Byte) (s : State) : (emitByte b s).errcode = s.errcode := rfl
@[simp] theorem emitByte_c7 (b : Byte) (s : State) : (emitByte b s).c7 = s.c7 := rfl
@[simp] theorem emitByte_c51 (b : Byte) (s : State) : (emitByte b s).c51 = s.c51 := rfl
@[simp] theorem emitByte_c1 (b : Byte) (s : State) : (emitByte b s).c1 = s.c1 := rfl
@[simp] theorem emitByte_lb (b : Byte) (s : State) : (emitByte b s).lb = s.lb := rfl
@[simp] theorem emitByte_sr (b : Byte) (s : State) : (emitByte b s).sr = s.sr := rfl
@[simp] theorem emitByte_bc (b : Byte) (s : State) : (emitByte b s).bc = s.bc := rfl
@[simp] theorem emitByte_params (b : Byte) (s : State) : (emitByte b s).params = s.params := rfl
@[simp] theorem emitByte_input (b : Byte) (s : State) : (emitByte b s).input = s.input := rfl
@[simp] theorem emitByte_bytes (b : Byte) (s : State) : (emitByte b s).bytes = s.bytes ++ [b] := rfl
@[simp] theorem emitByte_pixels (b : Byte) (s : State) : (emitByte b s).pixels = s.pixels := rfl
@[simp] theorem emitByte_resets (b : Byte) (s : State) : (emitByte b s).resets = s.resets := rfl

/-! ### `emitPixel` -/

@[simp] theorem emitPixel_width (r : PixelRecord) (s : State) : (emitPixel r s).width = s.width := rfl
@[simp] theorem emitPixel_height (r : PixelRecord) (s : State) : (emitPixel r s).height = s.height := rfl
@[simp] theorem emitPixel_thresh (r : PixelRecord) (s : State) : (emitPixel r s).thresh = s.thresh := rfl
@[simp] theorem emitPixel_mode (r : PixelRecord) (s : State) : (emitPixel r s).mode = s.mode := rfl
@[simp] theorem emitPixel_bg (r : PixelRecord) (s : State) : (emitPixel r s).bg = s.bg := rfl
@[simp] theorem emitPixel_ph (r : PixelRecord) (s : State) : (emitPixel r s).ph = s.ph := rfl
@[simp] theorem emitPixel_x (r : PixelRecord) (s : State) : (emitPixel r s).x = s.x := rfl
@[simp] theorem emitPixel_y (r : PixelRecord) (s : State) : (emitPixel r s).y = s.y := rfl
@[simp] theorem emitPixel_done (r : PixelRecord) (s : State) : (emitPixel r s).done = s.done := rfl
@[simp] theorem emitPixel_errcode (r : PixelRecord) (s : State) : (emitPixel r s).errcode = s.errcode := rfl
@[simp] theorem emitPixel_c7 (r : PixelRecord) (s : State) : (emitPixel r s).c7 = s.c7 := rfl
@[simp] theorem emitPixel_c51 (r : PixelRecord) (s : State) : (emitPixel r s).c51 = s.c51 := rfl
@[simp] theorem emitPixel_c1 (r : PixelRecord) (s : State) : (emitPixel r s).c1 = s.c1 := rfl
@[simp] theorem emitPixel_lb (r : PixelRecord) (s : State) : (emitPixel r s).lb = s.lb := rfl
@[simp] theorem emitPixel_sr (r : PixelRecord) (s : State) : (emitPixel r s).sr = s.sr := rfl
@[simp] theorem emitPixel_bc (r : PixelRecord) (s : State) : (emitPixel r s).bc = s.bc := rfl
@[simp] theorem emitPixel_params (r : PixelRecord) (s : State) : (emitPixel r s).params = s.params := rfl
@[simp] theorem emitPixel_input (r : PixelRecord) (s : State) : (emitPixel r s).input = s.input := rfl
@[simp] theorem emitPixel_bytes (r : PixelRecord) (s : State) : (emitPixel r s).bytes = s.bytes := rfl
@[simp] theorem emitPixel_pixels (r : PixelRecord) (s : State) : (emitPixel r s).pixels = s.pixels ++ [r] := rfl
@[simp] theorem emitPixel_resets (r : PixelRecord) (s : State) : (emitPixel r s).resets = s.resets := rfl

/-! ### `present` -/

@[simp] theorem present_width (w : Word) (s : State) : (present w s).width = s.width := rfl
@[simp] theorem present_height (w : Word) (s : State) : (present w s).height = s.height := rfl
@[simp] theorem present_thresh (w : Word) (s : State) : (present w s).thresh = s.thresh := rfl
@[simp] theorem present_mode (w : Word) (s : State) : (present w s).mode = s.mode := rfl
@[simp] theorem present_bg (w : Word) (s : State) : (present w s).bg = s.bg := rfl
@[simp] theorem present_ph (w : Word) (s : State) : (present w s).ph = s.ph := rfl
@[simp] theorem present_x (w : Word) (s : State) : (present w s).x = s.x := rfl
@[simp] theorem present_y (w : Word) (s : State) : (present w s).y = s.y := rfl
@[simp] theorem present_done (w : Word) (s : State) : (present w s).done = s.done := rfl
@[simp] theorem present_errcode (w : Word) (s : State) : (present w s).errcode = s.errcode := rfl
@[simp] theorem present_c7 (w : Word) (s : State) : (present w s).c7 = s.c7 := rfl
@[simp] theorem present_c51 (w : Word) (s : State) : (present w s).c51 = s.c51 := rfl
@[simp] theorem present_c1 (w : Word) (s : State) : (present w s).c1 = s.c1 := rfl
@[simp] theorem present_lb (w : Word) (s : State) : (present w s).lb = s.lb := rfl
@[simp] theorem present_sr (w : Word) (s : State) : (present w s).sr = s.sr := rfl
@[simp] theorem present_bc (w : Word) (s : State) : (present w s).bc = s.bc := rfl
@[simp] theorem present_params (w : Word) (s : State) : (present w s).params = s.params := rfl
@[simp] theorem present_input (w : Word) (s : State) : (present w s).input = .command w :: s.input := rfl
@[simp] theorem present_bytes (w : Word) (s : State) : (present w s).bytes = s.bytes := rfl
@[simp] theorem present_pixels (w : Word) (s : State) : (present w s).pixels = s.pixels := rfl
@[simp] theorem present_resets (w : Word) (s : State) : (present w s).resets = s.resets := rfl

/-! ### `raise` -/

@[simp] theorem raise_width (e : Cause) (s : State) : (raise e s).width = s.width := rfl
@[simp] theorem raise_height (e : Cause) (s : State) : (raise e s).height = s.height := rfl
@[simp] theorem raise_thresh (e : Cause) (s : State) : (raise e s).thresh = s.thresh := rfl
@[simp] theorem raise_mode (e : Cause) (s : State) : (raise e s).mode = s.mode := rfl
@[simp] theorem raise_bg (e : Cause) (s : State) : (raise e s).bg = s.bg := rfl
@[simp] theorem raise_ph (e : Cause) (s : State) : (raise e s).ph = .err := rfl
@[simp] theorem raise_x (e : Cause) (s : State) : (raise e s).x = s.x := rfl
@[simp] theorem raise_y (e : Cause) (s : State) : (raise e s).y = s.y := rfl
@[simp] theorem raise_done (e : Cause) (s : State) : (raise e s).done = s.done := rfl
@[simp] theorem raise_errcode (e : Cause) (s : State) : (raise e s).errcode = some e := rfl
@[simp] theorem raise_c7 (e : Cause) (s : State) : (raise e s).c7 = s.c7 := rfl
@[simp] theorem raise_c51 (e : Cause) (s : State) : (raise e s).c51 = s.c51 := rfl
@[simp] theorem raise_c1 (e : Cause) (s : State) : (raise e s).c1 = s.c1 := rfl
@[simp] theorem raise_lb (e : Cause) (s : State) : (raise e s).lb = s.lb := rfl
@[simp] theorem raise_sr (e : Cause) (s : State) : (raise e s).sr = s.sr := rfl
@[simp] theorem raise_bc (e : Cause) (s : State) : (raise e s).bc = s.bc := rfl
@[simp] theorem raise_params (e : Cause) (s : State) : (raise e s).params = s.params := rfl
@[simp] theorem raise_input (e : Cause) (s : State) : (raise e s).input = s.input := rfl
@[simp] theorem raise_bytes (e : Cause) (s : State) : (raise e s).bytes = s.bytes := rfl
@[simp] theorem raise_pixels (e : Cause) (s : State) : (raise e s).pixels = s.pixels := rfl
@[simp] theorem raise_resets (e : Cause) (s : State) : (raise e s).resets = s.resets := rfl

/-! ### `resetAll` -/

@[simp] theorem resetAll_width (s : State) : (resetAll s).width = 0#12 := rfl
@[simp] theorem resetAll_height (s : State) : (resetAll s).height = 0#12 := rfl
@[simp] theorem resetAll_thresh (s : State) : (resetAll s).thresh = 128#8 := rfl
@[simp] theorem resetAll_mode (s : State) : (resetAll s).mode = .threshold := rfl
@[simp] theorem resetAll_bg (s : State) : (resetAll s).bg = false := rfl
@[simp] theorem resetAll_ph (s : State) : (resetAll s).ph = .idle := rfl
@[simp] theorem resetAll_x (s : State) : (resetAll s).x = 0#12 := rfl
@[simp] theorem resetAll_y (s : State) : (resetAll s).y = 0#12 := rfl
@[simp] theorem resetAll_done (s : State) : (resetAll s).done = false := rfl
@[simp] theorem resetAll_errcode (s : State) : (resetAll s).errcode = none := rfl
@[simp] theorem resetAll_c7 (s : State) : (resetAll s).c7 = 0#11 := rfl
@[simp] theorem resetAll_c51 (s : State) : (resetAll s).c51 = 0#11 := rfl
@[simp] theorem resetAll_c1 (s : State) : (resetAll s).c1 = 0#9 := rfl
@[simp] theorem resetAll_lb (s : State) : (resetAll s).lb = LineBuffer.unspecified s.resets := rfl
@[simp] theorem resetAll_sr (s : State) : (resetAll s).sr = 0#8 := rfl
@[simp] theorem resetAll_bc (s : State) : (resetAll s).bc = 0#3 := rfl
@[simp] theorem resetAll_params (s : State) : (resetAll s).params = s.params := rfl
@[simp] theorem resetAll_input (s : State) : (resetAll s).input = s.input := rfl
@[simp] theorem resetAll_bytes (s : State) : (resetAll s).bytes = s.bytes := rfl
@[simp] theorem resetAll_pixels (s : State) : (resetAll s).pixels = s.pixels := rfl
@[simp] theorem resetAll_resets (s : State) : (resetAll s).resets = s.resets + 1 := rfl

/-! ### `initFrame` -/

@[simp] theorem initFrame_width (s : State) : (initFrame s).width = s.width := rfl
@[simp] theorem initFrame_height (s : State) : (initFrame s).height = s.height := rfl
@[simp] theorem initFrame_thresh (s : State) : (initFrame s).thresh = s.thresh := rfl
@[simp] theorem initFrame_mode (s : State) : (initFrame s).mode = s.mode := rfl
@[simp] theorem initFrame_bg (s : State) : (initFrame s).bg = s.bg := rfl
@[simp] theorem initFrame_ph (s : State) : (initFrame s).ph = s.ph := rfl
@[simp] theorem initFrame_x (s : State) : (initFrame s).x = 0#12 := rfl
@[simp] theorem initFrame_y (s : State) : (initFrame s).y = 0#12 := rfl
@[simp] theorem initFrame_done (s : State) : (initFrame s).done = false := rfl
@[simp] theorem initFrame_errcode (s : State) : (initFrame s).errcode = s.errcode := rfl
@[simp] theorem initFrame_c7 (s : State) : (initFrame s).c7 = 0#11 := rfl
@[simp] theorem initFrame_c51 (s : State) : (initFrame s).c51 = 0#11 := rfl
@[simp] theorem initFrame_c1 (s : State) : (initFrame s).c1 = 0#9 := rfl
@[simp] theorem initFrame_lb (s : State) : (initFrame s).lb = LineBuffer.zero := rfl
@[simp] theorem initFrame_sr (s : State) : (initFrame s).sr = 0#8 := rfl
@[simp] theorem initFrame_bc (s : State) : (initFrame s).bc = 0#3 := rfl
@[simp] theorem initFrame_params (s : State) : (initFrame s).params = s.params := rfl
@[simp] theorem initFrame_input (s : State) : (initFrame s).input = s.input := rfl
@[simp] theorem initFrame_bytes (s : State) : (initFrame s).bytes = s.bytes := rfl
@[simp] theorem initFrame_pixels (s : State) : (initFrame s).pixels = s.pixels := rfl
@[simp] theorem initFrame_resets (s : State) : (initFrame s).resets = s.resets := rfl

/-! ### `beginFrame` -/

@[simp] theorem beginFrame_width (s : State) : (beginFrame s).width = s.width := rfl
@[simp] theorem beginFrame_height (s : State) : (beginFrame s).height = s.height := rfl
@[simp] theorem beginFrame_thresh (s : State) : (beginFrame s).thresh = s.thresh := rfl
@[simp] theorem beginFrame_mode (s : State) : (beginFrame s).mode = s.mode := rfl
@[simp] theorem beginFrame_bg (s : State) : (beginFrame s).bg = s.bg := rfl
@[simp] theorem beginFrame_ph (s : State) : (beginFrame s).ph = .run := rfl
@[simp] theorem beginFrame_x (s : State) : (beginFrame s).x = 0#12 := rfl
@[simp] theorem beginFrame_y (s : State) : (beginFrame s).y = 0#12 := rfl
@[simp] theorem beginFrame_done (s : State) : (beginFrame s).done = false := rfl
@[simp] theorem beginFrame_errcode (s : State) : (beginFrame s).errcode = s.errcode := rfl
@[simp] theorem beginFrame_c7 (s : State) : (beginFrame s).c7 = 0#11 := rfl
@[simp] theorem beginFrame_c51 (s : State) : (beginFrame s).c51 = 0#11 := rfl
@[simp] theorem beginFrame_c1 (s : State) : (beginFrame s).c1 = 0#9 := rfl
@[simp] theorem beginFrame_lb (s : State) : (beginFrame s).lb = LineBuffer.zero := rfl
@[simp] theorem beginFrame_sr (s : State) : (beginFrame s).sr = 0#8 := rfl
@[simp] theorem beginFrame_bc (s : State) : (beginFrame s).bc = 0#3 := rfl
@[simp] theorem beginFrame_params (s : State) : (beginFrame s).params = s.params := rfl
@[simp] theorem beginFrame_input (s : State) : (beginFrame s).input = s.input := rfl
@[simp] theorem beginFrame_bytes (s : State) : (beginFrame s).bytes = s.bytes ++ [headerByte] := rfl
@[simp] theorem beginFrame_pixels (s : State) : (beginFrame s).pixels = s.pixels := rfl
@[simp] theorem beginFrame_resets (s : State) : (beginFrame s).resets = s.resets := rfl

/-! ### `passError` -/

@[simp] theorem passError_width (e : Int) (s : State) : (passError e s).width = s.width := rfl
@[simp] theorem passError_height (e : Int) (s : State) : (passError e s).height = s.height := rfl
@[simp] theorem passError_thresh (e : Int) (s : State) : (passError e s).thresh = s.thresh := rfl
@[simp] theorem passError_mode (e : Int) (s : State) : (passError e s).mode = s.mode := rfl
@[simp] theorem passError_bg (e : Int) (s : State) : (passError e s).bg = s.bg := rfl
@[simp] theorem passError_ph (e : Int) (s : State) : (passError e s).ph = s.ph := rfl
@[simp] theorem passError_x (e : Int) (s : State) : (passError e s).x = s.x := rfl
@[simp] theorem passError_y (e : Int) (s : State) : (passError e s).y = s.y := rfl
@[simp] theorem passError_done (e : Int) (s : State) : (passError e s).done = s.done := rfl
@[simp] theorem passError_errcode (e : Int) (s : State) : (passError e s).errcode = s.errcode := rfl
@[simp] theorem passError_c7 (e : Int) (s : State) : (passError e s).c7 = BitVec.ofInt 11 (7 * e) := rfl
@[simp] theorem passError_c51 (e : Int) (s : State) : (passError e s).c51 = BitVec.ofInt 11 (5 * e + s.c1.toInt) := rfl
@[simp] theorem passError_c1 (e : Int) (s : State) : (passError e s).c1 = BitVec.ofInt 9 e := rfl
@[simp] theorem passError_lb (e : Int) (s : State) : (passError e s).lb = s.lb.write s.x.toNat (BitVec.ofInt 12 (3 * e + s.c51.toInt)) := rfl
@[simp] theorem passError_sr (e : Int) (s : State) : (passError e s).sr = s.sr := rfl
@[simp] theorem passError_bc (e : Int) (s : State) : (passError e s).bc = s.bc := rfl
@[simp] theorem passError_params (e : Int) (s : State) : (passError e s).params = s.params := rfl
@[simp] theorem passError_input (e : Int) (s : State) : (passError e s).input = s.input := rfl
@[simp] theorem passError_bytes (e : Int) (s : State) : (passError e s).bytes = s.bytes := rfl
@[simp] theorem passError_pixels (e : Int) (s : State) : (passError e s).pixels = s.pixels := rfl
@[simp] theorem passError_resets (e : Int) (s : State) : (passError e s).resets = s.resets := rfl

/-! ### `applyDiffusion` -/

@[simp] theorem applyDiffusion_width (o : DiffusionOutput) (s : State) : (applyDiffusion o s).width = s.width := rfl
@[simp] theorem applyDiffusion_height (o : DiffusionOutput) (s : State) : (applyDiffusion o s).height = s.height := rfl
@[simp] theorem applyDiffusion_thresh (o : DiffusionOutput) (s : State) : (applyDiffusion o s).thresh = s.thresh := rfl
@[simp] theorem applyDiffusion_mode (o : DiffusionOutput) (s : State) : (applyDiffusion o s).mode = s.mode := rfl
@[simp] theorem applyDiffusion_bg (o : DiffusionOutput) (s : State) : (applyDiffusion o s).bg = s.bg := rfl
@[simp] theorem applyDiffusion_ph (o : DiffusionOutput) (s : State) : (applyDiffusion o s).ph = s.ph := rfl
@[simp] theorem applyDiffusion_x (o : DiffusionOutput) (s : State) : (applyDiffusion o s).x = s.x := rfl
@[simp] theorem applyDiffusion_y (o : DiffusionOutput) (s : State) : (applyDiffusion o s).y = s.y := rfl
@[simp] theorem applyDiffusion_done (o : DiffusionOutput) (s : State) : (applyDiffusion o s).done = s.done := rfl
@[simp] theorem applyDiffusion_errcode (o : DiffusionOutput) (s : State) : (applyDiffusion o s).errcode = s.errcode := rfl
@[simp] theorem applyDiffusion_c7 (o : DiffusionOutput) (s : State) : (applyDiffusion o s).c7 = o.c7 := rfl
@[simp] theorem applyDiffusion_c51 (o : DiffusionOutput) (s : State) : (applyDiffusion o s).c51 = o.c51 := rfl
@[simp] theorem applyDiffusion_c1 (o : DiffusionOutput) (s : State) : (applyDiffusion o s).c1 = o.c1 := rfl
@[simp] theorem applyDiffusion_lb (o : DiffusionOutput) (s : State) : (applyDiffusion o s).lb = s.lb.writeAll s.params.wMax o.writes := rfl
@[simp] theorem applyDiffusion_sr (o : DiffusionOutput) (s : State) : (applyDiffusion o s).sr = s.sr := rfl
@[simp] theorem applyDiffusion_bc (o : DiffusionOutput) (s : State) : (applyDiffusion o s).bc = s.bc := rfl
@[simp] theorem applyDiffusion_params (o : DiffusionOutput) (s : State) : (applyDiffusion o s).params = s.params := rfl
@[simp] theorem applyDiffusion_input (o : DiffusionOutput) (s : State) : (applyDiffusion o s).input = s.input := rfl
@[simp] theorem applyDiffusion_bytes (o : DiffusionOutput) (s : State) : (applyDiffusion o s).bytes = s.bytes := rfl
@[simp] theorem applyDiffusion_pixels (o : DiffusionOutput) (s : State) : (applyDiffusion o s).pixels = s.pixels := rfl
@[simp] theorem applyDiffusion_resets (o : DiffusionOutput) (s : State) : (applyDiffusion o s).resets = s.resets := rfl

/-! ### `endOfRow` -/

@[simp] theorem endOfRow_width (s : State) : (endOfRow s).width = s.width := rfl
@[simp] theorem endOfRow_height (s : State) : (endOfRow s).height = s.height := rfl
@[simp] theorem endOfRow_thresh (s : State) : (endOfRow s).thresh = s.thresh := rfl
@[simp] theorem endOfRow_mode (s : State) : (endOfRow s).mode = s.mode := rfl
@[simp] theorem endOfRow_bg (s : State) : (endOfRow s).bg = s.bg := rfl
@[simp] theorem endOfRow_ph (s : State) : (endOfRow s).ph = s.ph := rfl
@[simp] theorem endOfRow_x (s : State) : (endOfRow s).x = s.x := rfl
@[simp] theorem endOfRow_y (s : State) : (endOfRow s).y = s.y := rfl
@[simp] theorem endOfRow_done (s : State) : (endOfRow s).done = s.done := rfl
@[simp] theorem endOfRow_errcode (s : State) : (endOfRow s).errcode = s.errcode := rfl
@[simp] theorem endOfRow_c7 (s : State) : (endOfRow s).c7 = 0#11 := rfl
@[simp] theorem endOfRow_c51 (s : State) : (endOfRow s).c51 = 0#11 := rfl
@[simp] theorem endOfRow_c1 (s : State) : (endOfRow s).c1 = 0#9 := rfl
@[simp] theorem endOfRow_lb (s : State) : (endOfRow s).lb = endOfRowBuffer s := rfl
@[simp] theorem endOfRow_sr (s : State) : (endOfRow s).sr = s.sr := rfl
@[simp] theorem endOfRow_bc (s : State) : (endOfRow s).bc = s.bc := rfl
@[simp] theorem endOfRow_params (s : State) : (endOfRow s).params = s.params := rfl
@[simp] theorem endOfRow_input (s : State) : (endOfRow s).input = s.input := rfl
@[simp] theorem endOfRow_bytes (s : State) : (endOfRow s).bytes = s.bytes := rfl
@[simp] theorem endOfRow_pixels (s : State) : (endOfRow s).pixels = s.pixels := rfl
@[simp] theorem endOfRow_resets (s : State) : (endOfRow s).resets = s.resets := rfl

end Sys2Proof.Machine
end

