-- ==== Sys2Proof/Laws/Pixel.lean ====
section
/-! SUPPORT. What the parts of a PIX step do to each field, and what the step as a whole leaves alone. -/

namespace Sys2Proof.Machine

/-! ### `pack` (44_preview_and_packer.md R166, R167) -/

@[simp] theorem pack_width (b : Bool) (s : State) : (pack b s).width = s.width := by unfold pack; split <;> rfl
@[simp] theorem pack_height (b : Bool) (s : State) : (pack b s).height = s.height := by unfold pack; split <;> rfl
@[simp] theorem pack_thresh (b : Bool) (s : State) : (pack b s).thresh = s.thresh := by unfold pack; split <;> rfl
@[simp] theorem pack_mode (b : Bool) (s : State) : (pack b s).mode = s.mode := by unfold pack; split <;> rfl
@[simp] theorem pack_bg (b : Bool) (s : State) : (pack b s).bg = s.bg := by unfold pack; split <;> rfl
@[simp] theorem pack_ph (b : Bool) (s : State) : (pack b s).ph = s.ph := by unfold pack; split <;> rfl
@[simp] theorem pack_x (b : Bool) (s : State) : (pack b s).x = s.x := by unfold pack; split <;> rfl
@[simp] theorem pack_y (b : Bool) (s : State) : (pack b s).y = s.y := by unfold pack; split <;> rfl
@[simp] theorem pack_done (b : Bool) (s : State) : (pack b s).done = s.done := by unfold pack; split <;> rfl
@[simp] theorem pack_errcode (b : Bool) (s : State) : (pack b s).errcode = s.errcode := by unfold pack; split <;> rfl
@[simp] theorem pack_c7 (b : Bool) (s : State) : (pack b s).c7 = s.c7 := by unfold pack; split <;> rfl
@[simp] theorem pack_c51 (b : Bool) (s : State) : (pack b s).c51 = s.c51 := by unfold pack; split <;> rfl
@[simp] theorem pack_c1 (b : Bool) (s : State) : (pack b s).c1 = s.c1 := by unfold pack; split <;> rfl
@[simp] theorem pack_lb (b : Bool) (s : State) : (pack b s).lb = s.lb := by unfold pack; split <;> rfl
@[simp] theorem pack_params (b : Bool) (s : State) : (pack b s).params = s.params := by unfold pack; split <;> rfl
@[simp] theorem pack_input (b : Bool) (s : State) : (pack b s).input = s.input := by unfold pack; split <;> rfl
@[simp] theorem pack_pixels (b : Bool) (s : State) : (pack b s).pixels = s.pixels := by unfold pack; split <;> rfl
@[simp] theorem pack_resets (b : Bool) (s : State) : (pack b s).resets = s.resets := by unfold pack; split <;> rfl

/-- The bytes `pack` emits: the completed one or none. -/
theorem pack_bytes (b : Bool) (s : State) :
    (pack b s).bytes = s.bytes ++ (if flushes s then [place b s] else []) := by
  unfold pack; split <;> simp

theorem pack_sr (b : Bool) (s : State) : (pack b s).sr = if flushes s then 0#8 else place b s := by
  unfold pack; split <;> rfl

theorem pack_bc (b : Bool) (s : State) : (pack b s).bc = if flushes s then 0#3 else s.bc + 1#3 := by
  unfold pack; split <;> rfl

/-! ### `closeRow` (43_error_diffusion.md R145) -/

@[simp] theorem closeRow_width (s : State) : (closeRow s).width = s.width := by unfold closeRow; split <;> rfl
@[simp] theorem closeRow_height (s : State) : (closeRow s).height = s.height := by unfold closeRow; split <;> rfl
@[simp] theorem closeRow_thresh (s : State) : (closeRow s).thresh = s.thresh := by unfold closeRow; split <;> rfl
@[simp] theorem closeRow_mode (s : State) : (closeRow s).mode = s.mode := by unfold closeRow; split <;> rfl
@[simp] theorem closeRow_bg (s : State) : (closeRow s).bg = s.bg := by unfold closeRow; split <;> rfl
@[simp] theorem closeRow_ph (s : State) : (closeRow s).ph = s.ph := by unfold closeRow; split <;> rfl
@[simp] theorem closeRow_x (s : State) : (closeRow s).x = s.x := by unfold closeRow; split <;> rfl
@[simp] theorem closeRow_y (s : State) : (closeRow s).y = s.y := by unfold closeRow; split <;> rfl
@[simp] theorem closeRow_done (s : State) : (closeRow s).done = s.done := by unfold closeRow; split <;> rfl
@[simp] theorem closeRow_errcode (s : State) : (closeRow s).errcode = s.errcode := by unfold closeRow; split <;> rfl
@[simp] theorem closeRow_sr (s : State) : (closeRow s).sr = s.sr := by unfold closeRow; split <;> rfl
@[simp] theorem closeRow_bc (s : State) : (closeRow s).bc = s.bc := by unfold closeRow; split <;> rfl
@[simp] theorem closeRow_params (s : State) : (closeRow s).params = s.params := by unfold closeRow; split <;> rfl
@[simp] theorem closeRow_input (s : State) : (closeRow s).input = s.input := by unfold closeRow; split <;> rfl
@[simp] theorem closeRow_bytes (s : State) : (closeRow s).bytes = s.bytes := by unfold closeRow; split <;> rfl
@[simp] theorem closeRow_pixels (s : State) : (closeRow s).pixels = s.pixels := by unfold closeRow; split <;> rfl
@[simp] theorem closeRow_resets (s : State) : (closeRow s).resets = s.resets := by unfold closeRow; split <;> rfl

theorem closeRow_c7 (s : State) : (closeRow s).c7 = if lastOfRow s then 0#11 else s.c7 := by
  unfold closeRow; split <;> rfl

theorem closeRow_c51 (s : State) : (closeRow s).c51 = if lastOfRow s then 0#11 else s.c51 := by
  unfold closeRow; split <;> rfl

theorem closeRow_c1 (s : State) : (closeRow s).c1 = if lastOfRow s then 0#9 else s.c1 := by
  unfold closeRow; split <;> rfl

theorem closeRow_lb (s : State) : (closeRow s).lb = if lastOfRow s then endOfRowBuffer s else s.lb := by
  unfold closeRow; split <;> rfl

/-! ### `advance` (42_quantizer.md R137) -/

@[simp] theorem advance_width (s : State) : (advance s).width = s.width := by unfold advance; split <;> [split; skip] <;> rfl
@[simp] theorem advance_height (s : State) : (advance s).height = s.height := by unfold advance; split <;> [split; skip] <;> rfl
@[simp] theorem advance_thresh (s : State) : (advance s).thresh = s.thresh := by unfold advance; split <;> [split; skip] <;> rfl
@[simp] theorem advance_mode (s : State) : (advance s).mode = s.mode := by unfold advance; split <;> [split; skip] <;> rfl
@[simp] theorem advance_bg (s : State) : (advance s).bg = s.bg := by unfold advance; split <;> [split; skip] <;> rfl
@[simp] theorem advance_errcode (s : State) : (advance s).errcode = s.errcode := by unfold advance; split <;> [split; skip] <;> rfl
@[simp] theorem advance_c7 (s : State) : (advance s).c7 = s.c7 := by unfold advance; split <;> [split; skip] <;> rfl
@[simp] theorem advance_c51 (s : State) : (advance s).c51 = s.c51 := by unfold advance; split <;> [split; skip] <;> rfl
@[simp] theorem advance_c1 (s : State) : (advance s).c1 = s.c1 := by unfold advance; split <;> [split; skip] <;> rfl
@[simp] theorem advance_lb (s : State) : (advance s).lb = s.lb := by unfold advance; split <;> [split; skip] <;> rfl
@[simp] theorem advance_sr (s : State) : (advance s).sr = s.sr := by unfold advance; split <;> [split; skip] <;> rfl
@[simp] theorem advance_bc (s : State) : (advance s).bc = s.bc := by unfold advance; split <;> [split; skip] <;> rfl
@[simp] theorem advance_params (s : State) : (advance s).params = s.params := by unfold advance; split <;> [split; skip] <;> rfl
@[simp] theorem advance_input (s : State) : (advance s).input = s.input := by unfold advance; split <;> [split; skip] <;> rfl
@[simp] theorem advance_bytes (s : State) : (advance s).bytes = s.bytes := by unfold advance; split <;> [split; skip] <;> rfl
@[simp] theorem advance_pixels (s : State) : (advance s).pixels = s.pixels := by unfold advance; split <;> [split; skip] <;> rfl
@[simp] theorem advance_resets (s : State) : (advance s).resets = s.resets := by unfold advance; split <;> [split; skip] <;> rfl

theorem advance_x (s : State) : (advance s).x = if lastOfRow s then 0#12 else s.x + 1#12 := by
  unfold advance; split <;> [split; skip] <;> rfl

theorem advance_y (s : State) : (advance s).y = if lastOfRow s then s.y + 1#12 else s.y := by
  unfold advance; split <;> [split; skip] <;> rfl

theorem advance_ph (s : State) : (advance s).ph = if lastOfRow s && lastRow s then .idle else s.ph := by
  unfold advance; split <;> [split; skip] <;> simp_all

theorem advance_done (s : State) : (advance s).done = if lastOfRow s && lastRow s then true else s.done := by
  unfold advance; split <;> [split; skip] <;> simp_all

/-! ### `quantize` (42_quantizer.md R136) -/

@[simp] theorem quantize_width (p : Byte) (s : State) : (quantize p s).2.width = s.width := by
  unfold quantize; split <;> [rfl; rfl; (split <;> rfl)]

@[simp] theorem quantize_height (p : Byte) (s : State) : (quantize p s).2.height = s.height := by
  unfold quantize; split <;> [rfl; rfl; (split <;> rfl)]

@[simp] theorem quantize_thresh (p : Byte) (s : State) : (quantize p s).2.thresh = s.thresh := by
  unfold quantize; split <;> [rfl; rfl; (split <;> rfl)]

@[simp] theorem quantize_mode (p : Byte) (s : State) : (quantize p s).2.mode = s.mode := by
  unfold quantize; split <;> [rfl; rfl; (split <;> rfl)]

@[simp] theorem quantize_bg (p : Byte) (s : State) : (quantize p s).2.bg = s.bg := by
  unfold quantize; split <;> [rfl; rfl; (split <;> rfl)]

@[simp] theorem quantize_ph (p : Byte) (s : State) : (quantize p s).2.ph = s.ph := by
  unfold quantize; split <;> [rfl; rfl; (split <;> rfl)]

@[simp] theorem quantize_x (p : Byte) (s : State) : (quantize p s).2.x = s.x := by
  unfold quantize; split <;> [rfl; rfl; (split <;> rfl)]

@[simp] theorem quantize_y (p : Byte) (s : State) : (quantize p s).2.y = s.y := by
  unfold quantize; split <;> [rfl; rfl; (split <;> rfl)]

@[simp] theorem quantize_done (p : Byte) (s : State) : (quantize p s).2.done = s.done := by
  unfold quantize; split <;> [rfl; rfl; (split <;> rfl)]

@[simp] theorem quantize_errcode (p : Byte) (s : State) : (quantize p s).2.errcode = s.errcode := by
  unfold quantize; split <;> [rfl; rfl; (split <;> rfl)]

@[simp] theorem quantize_sr (p : Byte) (s : State) : (quantize p s).2.sr = s.sr := by
  unfold quantize; split <;> [rfl; rfl; (split <;> rfl)]

@[simp] theorem quantize_bc (p : Byte) (s : State) : (quantize p s).2.bc = s.bc := by
  unfold quantize; split <;> [rfl; rfl; (split <;> rfl)]

@[simp] theorem quantize_params (p : Byte) (s : State) : (quantize p s).2.params = s.params := by
  unfold quantize; split <;> [rfl; rfl; (split <;> rfl)]

@[simp] theorem quantize_input (p : Byte) (s : State) : (quantize p s).2.input = s.input := by
  unfold quantize; split <;> [rfl; rfl; (split <;> rfl)]

@[simp] theorem quantize_bytes (p : Byte) (s : State) : (quantize p s).2.bytes = s.bytes := by
  unfold quantize; split <;> [rfl; rfl; (split <;> rfl)]

@[simp] theorem quantize_pixels (p : Byte) (s : State) : (quantize p s).2.pixels = s.pixels := by
  unfold quantize; split <;> [rfl; rfl; (split <;> rfl)]

@[simp] theorem quantize_resets (p : Byte) (s : State) : (quantize p s).2.resets = s.resets := by
  unfold quantize; split <;> [rfl; rfl; (split <;> rfl)]

/-- The quantizer writes no state outside MODE 1 (42_quantizer.md R130, R133). -/
theorem quantize_undiffused {p : Byte} {s : State} (h : s.mode ≠ .diffuse) : (quantize p s).2 = s := by
  unfold quantize
  split <;> first | rfl | exact absurd ‹s.mode = .diffuse› h

/-! ### Conditions that the parts leave alone -/

theorem lastOfRow_congr {s t : State} (hx : t.x = s.x) (hw : t.width = s.width) : lastOfRow t = lastOfRow s := by
  simp [lastOfRow, hx, hw]

theorem lastRow_congr {s t : State} (hy : t.y = s.y) (hh : t.height = s.height) : lastRow t = lastRow s := by
  simp [lastRow, hy, hh]

theorem flushes_congr {s t : State} (hb : t.bc = s.bc) (hx : t.x = s.x) (hw : t.width = s.width) :
    flushes t = flushes s := by
  simp [flushes, hb, lastOfRow_congr hx hw]

theorem place_congr {s t : State} (b : Bool) (hb : t.bc = s.bc) (hs : t.sr = s.sr) : place b t = place b s := by
  simp [place, hb, hs]

/-! ### `outputPixel`: everything after the quantizer, field by field -/

@[simp] theorem outputPixel_width (m : Bool) (s : State) : (outputPixel m s).width = s.width := by simp [outputPixel]
@[simp] theorem outputPixel_height (m : Bool) (s : State) : (outputPixel m s).height = s.height := by simp [outputPixel]
@[simp] theorem outputPixel_thresh (m : Bool) (s : State) : (outputPixel m s).thresh = s.thresh := by simp [outputPixel]
@[simp] theorem outputPixel_mode (m : Bool) (s : State) : (outputPixel m s).mode = s.mode := by simp [outputPixel]
@[simp] theorem outputPixel_bg (m : Bool) (s : State) : (outputPixel m s).bg = s.bg := by simp [outputPixel]
@[simp] theorem outputPixel_errcode (m : Bool) (s : State) : (outputPixel m s).errcode = s.errcode := by simp [outputPixel]
@[simp] theorem outputPixel_params (m : Bool) (s : State) : (outputPixel m s).params = s.params := by simp [outputPixel]
@[simp] theorem outputPixel_input (m : Bool) (s : State) : (outputPixel m s).input = s.input := by simp [outputPixel]
@[simp] theorem outputPixel_resets (m : Bool) (s : State) : (outputPixel m s).resets = s.resets := by simp [outputPixel]

section OutputPixel
variable (m : Bool) (s : State)

/-- The state `advance` sees: the pixel's place is still the one before the step. -/
theorem outputPixel_lastOfRow :
    lastOfRow (closeRow (pack (!m) (emitPixel (pixelRecord m s.bg) s))) = lastOfRow s :=
  lastOfRow_congr (by simp) (by simp)

theorem outputPixel_lastRow : lastRow (closeRow (pack (!m) (emitPixel (pixelRecord m s.bg) s))) = lastRow s :=
  lastRow_congr (by simp) (by simp)

theorem outputPixel_pixels : (outputPixel m s).pixels = s.pixels ++ [pixelRecord m s.bg] := by simp [outputPixel]

theorem outputPixel_bytes :
    (outputPixel m s).bytes = s.bytes ++ (if flushes s then [place (!m) s] else []) := by
  simp only [outputPixel, advance_bytes, closeRow_bytes, pack_bytes]
  rfl

theorem outputPixel_sr : (outputPixel m s).sr = if flushes s then 0#8 else place (!m) s := by
  simp only [outputPixel, advance_sr, closeRow_sr, pack_sr]
  rfl

theorem outputPixel_bc : (outputPixel m s).bc = if flushes s then 0#3 else s.bc + 1#3 := by
  simp only [outputPixel, advance_bc, closeRow_bc, pack_bc]
  rfl

theorem outputPixel_x : (outputPixel m s).x = if lastOfRow s then 0#12 else s.x + 1#12 := by
  simp [outputPixel, advance_x, outputPixel_lastOfRow]

theorem outputPixel_y : (outputPixel m s).y = if lastOfRow s then s.y + 1#12 else s.y := by
  simp [outputPixel, advance_y, outputPixel_lastOfRow]

theorem outputPixel_ph : (outputPixel m s).ph = if lastOfRow s && lastRow s then .idle else s.ph := by
  simp [outputPixel, advance_ph, outputPixel_lastOfRow, outputPixel_lastRow]

theorem outputPixel_done : (outputPixel m s).done = if lastOfRow s && lastRow s then true else s.done := by
  simp [outputPixel, advance_done, outputPixel_lastOfRow, outputPixel_lastRow]

theorem outputPixel_c7 : (outputPixel m s).c7 = if lastOfRow s then 0#11 else s.c7 := by
  rw [outputPixel, advance_c7, closeRow_c7, lastOfRow_congr (s := s) (by simp) (by simp)]
  simp

theorem outputPixel_c51 : (outputPixel m s).c51 = if lastOfRow s then 0#11 else s.c51 := by
  rw [outputPixel, advance_c51, closeRow_c51, lastOfRow_congr (s := s) (by simp) (by simp)]
  simp

theorem outputPixel_c1 : (outputPixel m s).c1 = if lastOfRow s then 0#9 else s.c1 := by
  rw [outputPixel, advance_c1, closeRow_c1, lastOfRow_congr (s := s) (by simp) (by simp)]
  simp

theorem outputPixel_lb : (outputPixel m s).lb = if lastOfRow s then endOfRowBuffer s else s.lb := by
  rw [outputPixel, advance_lb, closeRow_lb, lastOfRow_congr (s := s) (by simp) (by simp)]
  simp [endOfRowBuffer]

end OutputPixel

/-! ### `pixelStep`: the whole PIX in phase RUN, field by field -/

section PixelStep
variable (p : Byte) (s : State)

@[simp] theorem pixelStep_width : (pixelStep p s).width = s.width := by simp [pixelStep]
@[simp] theorem pixelStep_height : (pixelStep p s).height = s.height := by simp [pixelStep]
@[simp] theorem pixelStep_thresh : (pixelStep p s).thresh = s.thresh := by simp [pixelStep]
@[simp] theorem pixelStep_mode : (pixelStep p s).mode = s.mode := by simp [pixelStep]
@[simp] theorem pixelStep_bg : (pixelStep p s).bg = s.bg := by simp [pixelStep]
@[simp] theorem pixelStep_errcode : (pixelStep p s).errcode = s.errcode := by simp [pixelStep]
@[simp] theorem pixelStep_params : (pixelStep p s).params = s.params := by simp [pixelStep]
@[simp] theorem pixelStep_input : (pixelStep p s).input = s.input := by simp [pixelStep]
@[simp] theorem pixelStep_resets : (pixelStep p s).resets = s.resets := by simp [pixelStep]

theorem quantize_lastOfRow : lastOfRow (quantize p s).2 = lastOfRow s := lastOfRow_congr (by simp) (by simp)

theorem quantize_lastRow : lastRow (quantize p s).2 = lastRow s := lastRow_congr (by simp) (by simp)

theorem quantize_flushes : flushes (quantize p s).2 = flushes s := flushes_congr (by simp) (by simp) (by simp)

theorem quantize_place (b : Bool) : place b (quantize p s).2 = place b s := place_congr b (by simp) (by simp)

theorem pixelStep_pixels : (pixelStep p s).pixels = s.pixels ++ [pixelRecord (quantize p s).1 s.bg] := by
  simp [pixelStep, outputPixel_pixels]

theorem pixelStep_bytes :
    (pixelStep p s).bytes = s.bytes ++ (if flushes s then [place (!(quantize p s).1) s] else []) := by
  simp [pixelStep, outputPixel_bytes, quantize_flushes, quantize_place]

theorem pixelStep_sr : (pixelStep p s).sr = if flushes s then 0#8 else place (!(quantize p s).1) s := by
  simp [pixelStep, outputPixel_sr, quantize_flushes, quantize_place]

theorem pixelStep_bc : (pixelStep p s).bc = if flushes s then 0#3 else s.bc + 1#3 := by
  simp [pixelStep, outputPixel_bc, quantize_flushes]

theorem pixelStep_x : (pixelStep p s).x = if lastOfRow s then 0#12 else s.x + 1#12 := by
  simp [pixelStep, outputPixel_x, quantize_lastOfRow]

theorem pixelStep_y : (pixelStep p s).y = if lastOfRow s then s.y + 1#12 else s.y := by
  simp [pixelStep, outputPixel_y, quantize_lastOfRow]

theorem pixelStep_ph : (pixelStep p s).ph = if lastOfRow s && lastRow s then .idle else s.ph := by
  simp [pixelStep, outputPixel_ph, quantize_lastOfRow, quantize_lastRow]

theorem pixelStep_done : (pixelStep p s).done = if lastOfRow s && lastRow s then true else s.done := by
  simp [pixelStep, outputPixel_done, quantize_lastOfRow, quantize_lastRow]

theorem pixelStep_c7 : (pixelStep p s).c7 = if lastOfRow s then 0#11 else (quantize p s).2.c7 := by
  simp [pixelStep, outputPixel_c7, quantize_lastOfRow]

theorem pixelStep_c51 : (pixelStep p s).c51 = if lastOfRow s then 0#11 else (quantize p s).2.c51 := by
  simp [pixelStep, outputPixel_c51, quantize_lastOfRow]

theorem pixelStep_c1 : (pixelStep p s).c1 = if lastOfRow s then 0#9 else (quantize p s).2.c1 := by
  simp [pixelStep, outputPixel_c1, quantize_lastOfRow]

theorem pixelStep_lb :
    (pixelStep p s).lb = if lastOfRow s then endOfRowBuffer (quantize p s).2 else (quantize p s).2.lb := by
  simp [pixelStep, outputPixel_lb, quantize_lastOfRow]

end PixelStep

end Sys2Proof.Machine
end

