-- ==== Sys2Proof/Laws/Exec.lean ====
section
/-! SUPPORT. What each command can answer, once for each, and what a step can answer; no later proof unfolds a meaning. -/

namespace Sys2Proof.Machine

/-! ### The phase checks (41_frame_control.md R120) -/

section PhaseChecks
variable {act : State → StepResult} {s : State}

theorem inIdle_idle (h : s.ph = .idle) : inIdle act s = act s := by simp [inIdle, h]

theorem inIdle_run (h : s.ph = .run) : inIdle act s = .next (raise .encodingError s) := by simp [inIdle, h]

theorem inIdle_err (h : s.ph = .err) : inIdle act s = .next s := by simp [inIdle, h]

theorem inRun_run (h : s.ph = .run) : inRun act s = act s := by simp [inRun, h]

theorem inRun_idle (h : s.ph = .idle) : inRun act s = .next (raise .encodingError s) := by simp [inRun, h]

theorem inRun_err (h : s.ph = .err) : inRun act s = .next s := by simp [inRun, h]

/-- Everything `inIdle` can answer. -/
theorem inIdle_next {t : State} (h : inIdle act s = .next t) :
    (s.ph = .err ∧ t = s) ∨ (s.ph = .run ∧ t = raise .encodingError s) ∨ (s.ph = .idle ∧ act s = .next t) := by
  cases hp : s.ph with
  | err => rw [inIdle_err hp] at h; cases h; exact .inl ⟨rfl, rfl⟩
  | run => rw [inIdle_run hp] at h; cases h; exact .inr (.inl ⟨rfl, rfl⟩)
  | idle => rw [inIdle_idle hp] at h; exact .inr (.inr ⟨rfl, h⟩)

/-- Everything `inRun` can answer. -/
theorem inRun_next {t : State} (h : inRun act s = .next t) :
    (s.ph = .err ∧ t = s) ∨ (s.ph = .idle ∧ t = raise .encodingError s) ∨ (s.ph = .run ∧ act s = .next t) := by
  cases hp : s.ph with
  | err => rw [inRun_err hp] at h; cases h; exact .inl ⟨rfl, rfl⟩
  | idle => rw [inRun_idle hp] at h; cases h; exact .inr (.inl ⟨rfl, rfl⟩)
  | run => rw [inRun_run hp] at h; exact .inr (.inr ⟨rfl, h⟩)

end PhaseChecks

/-- Everything an ILLEGAL word can do (60_exceptions.md R184, R191). -/
theorem illegalCommand_cases (s : State) :
    (s.ph = .err ∧ illegalCommand s = s) ∨ (s.ph ≠ .err ∧ illegalCommand s = raise .illegalCommand s) := by
  cases h : s.ph <;> simp [illegalCommand, h]

theorem illegalCommand_err {s : State} (h : s.ph = .err) : illegalCommand s = s := by simp [illegalCommand, h]

theorem illegalCommand_live {s : State} (h : s.ph ≠ .err) : illegalCommand s = raise .illegalCommand s :=
  ((illegalCommand_cases s).resolve_left (fun c => h c.1)).2

/-! ### One lemma for each command -/

section Commands
variable {s t : State}

theorem execSetw_next {w : BitVec 12} (h : execSetw w s = .next t) :
    (s.ph = .err ∧ t = s) ∨ (s.ph = .run ∧ t = raise .encodingError s) ∨ (s.ph = .idle ∧ t = { s with width := w }) := by
  simpa [eq_comm] using inIdle_next h

theorem execSeth_next {v : BitVec 12} (h : execSeth v s = .next t) :
    (s.ph = .err ∧ t = s) ∨ (s.ph = .run ∧ t = raise .encodingError s) ∨ (s.ph = .idle ∧ t = { s with height := v }) := by
  simpa [eq_comm] using inIdle_next h

theorem execSett_next {v : BitVec 8} (h : execSett v s = .next t) :
    (s.ph = .err ∧ t = s) ∨ (s.ph = .run ∧ t = raise .encodingError s) ∨ (s.ph = .idle ∧ t = { s with thresh := v }) := by
  simpa [eq_comm] using inIdle_next h

/-- SETM with the reserved mode does what the ILLEGAL word does (30_encoding.md R85). -/
theorem execSetm_next {mode : BitVec 2} {bg : Bool} (h : execSetm mode bg s = .next t) :
    (modeOfField mode = none ∧ t = illegalCommand s) ∨
    ∃ m, modeOfField mode = some m ∧ ((s.ph = .err ∧ t = s) ∨ (s.ph = .run ∧ t = raise .encodingError s) ∨
      (s.ph = .idle ∧ t = { s with mode := m, bg := bg })) := by
  cases hm : modeOfField mode with
  | none =>
    simp only [execSetm, hm] at h
    cases h
    exact .inl ⟨rfl, rfl⟩
  | some m =>
    simp only [execSetm, hm] at h
    exact .inr ⟨m, rfl, by simpa [eq_comm] using inIdle_next h⟩

theorem execStart_next (h : execStart s = .next t) :
    (s.ph = .err ∧ t = s) ∨ (s.ph = .run ∧ t = raise .encodingError s) ∨
    (s.ph = .idle ∧ geometryBad s = true ∧ t = raise .invalidGeometry s) ∨
    (s.ph = .idle ∧ geometryBad s = false ∧ t = beginFrame s) := by
  rcases inIdle_next h with h | h | ⟨hp, h⟩
  · exact .inl h
  · exact .inr (.inl h)
  · cases hg : geometryBad s <;> simp [hg] at h <;> simp [hp, h]

theorem execPix_next {p : BitVec 8} (h : execPix p s = .next t) :
    (s.ph = .err ∧ t = s) ∨ (s.ph = .idle ∧ t = raise .encodingError s) ∨
    (s.ph = .run ∧ bufferReached s = true ∧ t = pixelStep p s) := by
  rcases inRun_next h with h | h | ⟨hp, h⟩
  · exact .inl h
  · exact .inr (.inl h)
  · cases hb : bufferReached s <;> simp [hb] at h
    exact .inr (.inr ⟨hp, rfl, h.symm⟩)

end Commands

/-- Everything `exec` can answer with a next state. -/
theorem exec_next {i : Instr} {s t : State} (h : exec i s = .next t) :
    (i = .rst ∧ t = resetAll s) ∨
    (i ≠ .rst ∧ s.ph = .err ∧ t = s) ∨
    (i ≠ .rst ∧ s.ph ≠ .err ∧ ∃ e, t = raise e s) ∨
    (s.ph = .idle ∧ ((∃ w, i = .setw w ∧ t = { s with width := w }) ∨ (∃ v, i = .seth v ∧ t = { s with height := v }) ∨
      (∃ v, i = .sett v ∧ t = { s with thresh := v }) ∨
      (∃ f bg m, i = .setm f bg ∧ modeOfField f = some m ∧ t = { s with mode := m, bg := bg }) ∨
      (i = .start ∧ geometryBad s = false ∧ t = beginFrame s))) ∨
    (s.ph = .run ∧ bufferReached s = true ∧ ∃ p, i = .pix p ∧ t = pixelStep p s) := by
  cases i with
  | setw w => rcases execSetw_next h with ⟨hp, rfl⟩ | ⟨hp, rfl⟩ | ⟨hp, rfl⟩ <;> simp [hp, raise]
  | seth w => rcases execSeth_next h with ⟨hp, rfl⟩ | ⟨hp, rfl⟩ | ⟨hp, rfl⟩ <;> simp [hp, raise]
  | sett w => rcases execSett_next h with ⟨hp, rfl⟩ | ⟨hp, rfl⟩ | ⟨hp, rfl⟩ <;> simp [hp, raise]
  | setm f bg =>
    rcases execSetm_next h with ⟨hm, rfl⟩ | ⟨m, hm, ⟨hp, rfl⟩ | ⟨hp, rfl⟩ | ⟨hp, rfl⟩⟩
    · rcases illegalCommand_cases s with ⟨hp, hi⟩ | ⟨hp, hi⟩
      · exact .inr (.inl ⟨by simp, hp, hi⟩)
      · exact .inr (.inr (.inl ⟨by simp, hp, _, hi⟩))
    · simp [hp]
    · exact .inr (.inr (.inl ⟨by simp, by simp [hp], _, rfl⟩))
    · exact .inr (.inr (.inr (.inl ⟨hp, .inr (.inr (.inr (.inl ⟨f, bg, m, rfl, hm, rfl⟩)))⟩)))
  | start =>
    rcases execStart_next h with ⟨hp, rfl⟩ | ⟨hp, rfl⟩ | ⟨hp, hg, rfl⟩ | ⟨hp, hg, rfl⟩
    · simp [hp]
    · exact .inr (.inr (.inl ⟨by simp, by simp [hp], _, rfl⟩))
    · exact .inr (.inr (.inl ⟨by simp, by simp [hp], _, rfl⟩))
    · exact .inr (.inr (.inr (.inl ⟨hp, .inr (.inr (.inr (.inr ⟨rfl, hg, rfl⟩)))⟩)))
  | pix p =>
    rcases execPix_next h with ⟨hp, rfl⟩ | ⟨hp, rfl⟩ | ⟨hp, hb, rfl⟩
    · simp [hp]
    · exact .inr (.inr (.inl ⟨by simp, by simp [hp], _, rfl⟩))
    · exact .inr (.inr (.inr (.inr ⟨hp, hb, p, rfl, rfl⟩)))
  | rst =>
    cases h
    exact .inl ⟨rfl, rfl⟩

/-- Everything `step` can answer with a next state. -/
theorem step_next {s t : State} (h : step s = .next t) :
    (s.input = [] ∧ t = s) ∨
    (∃ rest, s.input = .resetPin :: rest ∧ t = resetAll { s with input := rest }) ∨
    (∃ w rest why, s.input = .command w :: rest ∧ decode w = .illegal why ∧ t = illegalCommand { s with input := rest }) ∨
    (∃ w rest i, s.input = .command w :: rest ∧ decode w = .command i ∧ exec i { s with input := rest } = .next t) := by
  unfold step fetch at h
  cases hi : s.input with
  | nil =>
    simp only [hi] at h
    cases h
    exact .inl ⟨rfl, rfl⟩
  | cons e rest =>
    cases e with
    | resetPin =>
      simp only [hi] at h
      cases h
      exact .inr (.inl ⟨rest, rfl, rfl⟩)
    | command w =>
      cases hd : decode w with
      | command i =>
        simp only [hi, hd] at h
        exact .inr (.inr (.inr ⟨w, rest, i, rfl, hd, h⟩))
      | illegal why =>
        simp only [hi, hd] at h
        cases h
        exact .inr (.inr (.inl ⟨w, rest, why, rfl, hd, rfl⟩))

end Sys2Proof.Machine
end

