-- ==== Sys2Proof/Laws/Fields.lean ====
section
/-! SUPPORT. The fields of a word put together from its parts, and the parts put together from its fields. -/

namespace Sys2Proof

/-! ### Formats D and Z (30_encoding.md R80) -/

theorem opcodeOf_append (op : BitVec 4) (v : BitVec 12) : opcodeOf (op ++ v) = op :=
  BitVec.extractLsb'_append_eq_left (a := op) (b := v)

theorem imm12_append (op : BitVec 4) (v : BitVec 12) : imm12 (op ++ v) = v :=
  BitVec.extractLsb'_append_eq_right (a := op) (b := v)

/-- A word is its opcode and its low twelve bits. -/
theorem word_eq_opcode_imm12 (w : Word) : opcodeOf w ++ imm12 w = w := by
  unfold opcodeOf imm12
  rw [BitVec.extractLsb'_append_extractLsb'_eq_extractLsb' (by rfl)]
  simp

/-! ### Format B (30_encoding.md R80) -/

theorem opcodeOf_formatB (op z : BitVec 4) (v : BitVec 8) : opcodeOf (op ++ z ++ v) = op := by
  have h := BitVec.extractLsb'_append_eq_of_le (xhi := op ++ z) (xlo := v) (start := 12) (len := 4) (by decide)
  exact h.trans (BitVec.extractLsb'_append_eq_left (a := op) (b := z))

theorem zeros11to8_formatB (op z : BitVec 4) (v : BitVec 8) : zeros11to8 (op ++ z ++ v) = z := by
  have h := BitVec.extractLsb'_append_eq_of_le (xhi := op ++ z) (xlo := v) (start := 8) (len := 4) (by decide)
  exact h.trans (BitVec.extractLsb'_append_eq_right (a := op) (b := z))

theorem imm8_formatB (op z : BitVec 4) (v : BitVec 8) : imm8 (op ++ z ++ v) = v :=
  BitVec.extractLsb'_append_eq_right (a := op ++ z) (b := v)

/-- A word is its opcode, the four bits below it and its low byte. -/
theorem word_eq_formatB (w : Word) : opcodeOf w ++ zeros11to8 w ++ imm8 w = w := by
  unfold opcodeOf zeros11to8 imm8
  rw [BitVec.extractLsb'_append_extractLsb'_eq_extractLsb' (by rfl),
    BitVec.extractLsb'_append_extractLsb'_eq_extractLsb' (by rfl)]
  simp

/-! ### Format M (30_encoding.md R80) -/

theorem ofBool_bgField (w : Word) : BitVec.ofBool (bgField w) = w.extractLsb' 2 1 := by
  ext i hi
  obtain rfl : i = 0 := by omega
  simp [bgField]

/-- A word is its opcode, the nine bits below it, `bg` and `mode`. -/
theorem word_eq_formatM (w : Word) :
    opcodeOf w ++ zeros11to3 w ++ BitVec.ofBool (bgField w) ++ modeField w = w := by
  rw [ofBool_bgField]
  unfold opcodeOf zeros11to3 modeField
  rw [BitVec.extractLsb'_append_extractLsb'_eq_extractLsb' (by rfl),
    BitVec.extractLsb'_append_extractLsb'_eq_extractLsb' (by rfl),
    BitVec.extractLsb'_append_extractLsb'_eq_extractLsb' (by rfl)]
  simp

end Sys2Proof
end

