-- ==== Sys2Proof/Laws/PerInstr.lean ====
section
/-! SUPPORT. Families of lemmas with one lemma for each command. -/

namespace Sys2Proof.Laws

/-- A mask of high ones keeps the fixed part of a word and clears its operand. -/
theorem fixed_part {n k : Nat} (a : BitVec n) (b : BitVec k) : (a ++ b) &&& (BitVec.allOnes n ++ 0#k) = a ++ 0#k := by
  rw [BitVec.and_append, BitVec.and_allOnes, BitVec.and_zero]

/-- The word of an instruction carries its row's fixed bits (30_encoding.md R81), whether or not it is well formed. -/
def EncodeFollowsRow.Statement (i : Instr) : Prop :=
  ∃ r ∈ opcodeRows, r.mnemonic = mnemonicOf i ∧ encode i &&& r.mask = r.pattern

theorem EncodeFollowsRow.setw (w : BitVec 12) : EncodeFollowsRow.Statement (.setw w) :=
  ⟨_, List.mem_of_getElem? (i := 0) rfl, rfl, fixed_part 0x1#4 w⟩

theorem EncodeFollowsRow.seth (h : BitVec 12) : EncodeFollowsRow.Statement (.seth h) :=
  ⟨_, List.mem_of_getElem? (i := 1) rfl, rfl, fixed_part 0x2#4 h⟩

theorem EncodeFollowsRow.sett (t : BitVec 8) : EncodeFollowsRow.Statement (.sett t) :=
  ⟨_, List.mem_of_getElem? (i := 2) rfl, rfl, fixed_part (0x3#4 ++ 0#4) t⟩

theorem EncodeFollowsRow.setm (mode : BitVec 2) (bg : Bool) : EncodeFollowsRow.Statement (.setm mode bg) :=
  ⟨_, List.mem_of_getElem? (i := 3) rfl, rfl, by revert mode bg; decide⟩

theorem EncodeFollowsRow.start : EncodeFollowsRow.Statement .start :=
  ⟨_, List.mem_of_getElem? (i := 4) rfl, rfl, by decide⟩

theorem EncodeFollowsRow.pix (p : BitVec 8) : EncodeFollowsRow.Statement (.pix p) :=
  ⟨_, List.mem_of_getElem? (i := 5) rfl, rfl, fixed_part (0x6#4 ++ 0#4) p⟩

theorem EncodeFollowsRow.rst : EncodeFollowsRow.Statement .rst :=
  ⟨_, List.mem_of_getElem? (i := 6) rfl, rfl, by decide⟩

end Sys2Proof.Laws
end

