-- ==== Sys2Proof/Laws/Run.lean ====
section
/-! SUPPORT. Runs of several steps. -/

namespace Sys2Proof.Machine

/-- What the rest of a run makes of one step. -/
def afterStep (f : State → StepResult) : StepResult → StepResult
  | .next s => f s
  | .fault r => .fault r
  | .refused r => .refused r

@[simp] theorem afterStep_next (f : State → StepResult) (s : State) : afterStep f (.next s) = f s := rfl

@[simp] theorem runSteps_zero (s : State) : runSteps 0 s = .next s := rfl

/-- One more step of any core. -/
theorem core_run_succ (M : Host.Core) (n : Nat) (s : M.State) :
    (∀ t, M.step s = .next t → M.run (n + 1) s = M.run n t) ∧
    (∀ r, M.step s = .fault r → M.run (n + 1) s = .fault r) ∧
    (∀ r, M.step s = .refused r → M.run (n + 1) s = .refused r) := by
  refine ⟨fun t h => ?_, fun r h => ?_, fun r h => ?_⟩ <;> rw [Host.Core.run.eq_def] <;> simp only [h]

theorem runSteps_succ (n : Nat) (s : State) : runSteps (n + 1) s = afterStep (runSteps n) (step s) := by
  have h := core_run_succ Sys2Proof.core n s
  cases hs : step s with
  | next t => exact h.1 t hs
  | fault r => exact h.2.1 r hs
  | refused r => exact h.2.2 r hs

/-- A run in two parts. -/
theorem runSteps_add (n k : Nat) (s : State) : runSteps (n + k) s = afterStep (runSteps k) (runSteps n s) := by
  induction n generalizing s with
  | zero => simp
  | succ n ih =>
    rw [Nat.succ_add, runSteps_succ, runSteps_succ]
    cases step s with
    | next t => exact ih t
    | fault r => rfl
    | refused r => rfl

/-- A property that every step keeps holds after a run. -/
theorem runSteps_keeps {P : State → Prop} (h : ∀ s t, P s → step s = .next t → P t) {n : Nat} {s t : State}
    (hs : P s) (ht : runSteps n s = .next t) : P t := by
  induction n generalizing s with
  | zero => cases ht; exact hs
  | succ n ih =>
    rw [runSteps_succ] at ht
    cases hstep : step s with
    | next u => rw [hstep] at ht; exact ih (h s u hs hstep) ht
    | fault r => rw [hstep] at ht; cases ht
    | refused r => rw [hstep] at ht; cases ht

/-- A relation between two states that every step keeps holds between the outcomes of two runs. -/
theorem runSteps_related {R : State → State → Prop} (h : ∀ a b, R a b → outcomesRelated R (step a) (step b)) {n : Nat}
    {a b : State} (hab : R a b) : outcomesRelated R (runSteps n a) (runSteps n b) := by
  induction n generalizing a b with
  | zero => exact hab
  | succ n ih =>
    have hs := h a b hab
    rw [runSteps_succ, runSteps_succ]
    cases ha : step a <;> cases hb : step b <;> rw [ha, hb] at hs
    case next.next t u => exact ih hs
    all_goals first | exact hs | exact False.elim hs

end Sys2Proof.Machine
end

