-- ==== Sys2Proof/Tests/Slice0.lean ====
section
/-! SUPPORT. Tests of one step each, with results taken from 95_test_vectors.md, and for each statement with hypotheses a
witness: concrete states and operands that meet them. -/

namespace Sys2Proof.Machine

/-! ### Small states -/

/-- Phase IDLE with a geometry, nothing else changed since reset. -/
def idleAt (w h : Nat) (m : Mode) : State :=
  { State.reset with width := BitVec.ofNat 12 w, height := BitVec.ofNat 12 h, mode := m }

/-- Phase RUN before the pixel (`x`, `y`) of a frame without a black pixel in its byte and without an error so far. -/
def runAt (w h x y : Nat) (m : Mode) : State :=
  { idleAt w h m with
    ph := .run, x := BitVec.ofNat 12 x, y := BitVec.ofNat 12 y, bc := BitVec.ofNat 3 (x % 8), lb := LineBuffer.zero }

/-- Phase ERR by a cause. -/
def failed (e : Cause) : State := { State.reset with ph := .err, errcode := some e }

/-- Phase IDLE after a frame of height `h`. -/
def finished (w h : Nat) : State := { idleAt w h .threshold with done := true, y := BitVec.ofNat 12 h, lb := LineBuffer.zero }

/-- The largest width reduced to 64, for a START that is too wide (95_test_vectors.md FC9). -/
def narrow (s : State) : State := { s with params := { s.params with wMax := 64 } }

/-- Another diffusion algorithm. -/
def otherKernel (s : State) : State := { s with params := { s.params with diffusion := .other 0 } }

/-- One command word presented, and one step. -/
def after (w : Word) (s : State) : Option State :=
  match step (present w s) with
  | .next t => some t
  | .fault _ => none
  | .refused _ => none

/-! ### Well-formedness (30_encoding.md R81) -/

theorem test_setm_reserved_mode_refused : (Instr.setm 3#2 true).wellFormed = false := by decide

theorem test_setm_ordered_accepted : (Instr.setm 2#2 true).wellFormed = true := by decide

/-! ### Decoding: words written out from 30_encoding.md R80 and R81 (95_test_vectors.md section 2) -/

/-- K1, K2. -/
theorem test_decode_setw : decode 0b0001000000000000#16 = .command (.setw 0#12) ∧
    decode 0b0001111111111111#16 = .command (.setw 4095#12) := by decide

/-- K3. -/
theorem test_decode_seth : decode 0b0010000000000001#16 = .command (.seth 1#12) := by decide

/-- K4, K5, K6, K7. -/
theorem test_decode_sett : decode 0b0011000000000000#16 = .command (.sett 0#8) ∧
    decode 0b0011000011111111#16 = .command (.sett 255#8) ∧ decode 0b0011000100000000#16 = .illegal .mustBeZero ∧
    decode 0b0011100000000000#16 = .illegal .mustBeZero := by decide

/-- K8 to K12. -/
theorem test_decode_setm : decode 0b0100000000000000#16 = .command (.setm 0#2 false) ∧
    decode 0b0100000000000110#16 = .command (.setm 2#2 true) ∧ decode 0b0100000000000011#16 = .illegal .reservedMode ∧
    decode 0b0100000000000111#16 = .illegal .reservedMode ∧ decode 0b0100000000001000#16 = .illegal .mustBeZero := by
  decide

/-- K13, K14. -/
theorem test_decode_start : decode 0b0101000000000000#16 = .command .start ∧
    decode 0b0101000000000001#16 = .illegal .mustBeZero := by decide

/-- K15, K16. -/
theorem test_decode_pix : decode 0b0110000000000000#16 = .command (.pix 0#8) ∧
    decode 0b0110000011111111#16 = .command (.pix 255#8) ∧ decode 0b0110000100000000#16 = .illegal .mustBeZero := by
  decide

/-- K17, K18. -/
theorem test_decode_rst : decode 0b1111000000000000#16 = .command .rst ∧
    decode 0b1111000000000001#16 = .illegal .mustBeZero ∧ decode 0b1111111111111111#16 = .illegal .mustBeZero := by
  decide

/-- K19, K20. -/
theorem test_decode_reserved : decode 0x0FFF#16 = .illegal (.reservedOpcode 0#4) ∧
    decode 0x7000#16 = .illegal (.reservedOpcode 7#4) ∧ decode 0xE000#16 = .illegal (.reservedOpcode 14#4) := by decide

/-- An operand out of range is an assembly error (30_encoding.md R86). -/
theorem test_assemble_out_of_range : assemble "SETW 4096" = none ∧ assemble "SETM 3" = none ∧
    assemble "FILL 0, 256" = none := by decide

/-- The assembler's text (30_encoding.md R86, R87). -/
theorem test_assemble : assemble "SETW 8 ; eight\nSETM ORDERED, 1\nROW 0x7F, 128\n.word 65535" =
    some [0x1008#16, 0x4006#16, 0x607F#16, 0x6080#16, 0xFFFF#16] := by decide

/-! ### One step each -/

/-- CF1. -/
theorem test_setw_stores : (after 0x1080#16 State.reset).map State.width = some 128#12 := by decide

/-- CF10. -/
theorem test_setw_ignored_in_err : after 0x1008#16 (failed .encodingError) = some (failed .encodingError) := by decide

/-- CF8. -/
theorem test_seth_after_frame : (after 0x2005#16 (finished 2 1)).map (fun t => (t.height, t.done, t.y, t.bytes)) =
    some (5#12, true, 1#12, []) := by decide

/-- CF4. -/
theorem test_sett_stores : (after 0x3064#16 State.reset).map State.thresh = some 100#8 := by decide

/-- CF9. -/
theorem test_sett_in_run_faults : (after 0x3010#16 (runAt 2 1 0 0 .threshold)).map
    (fun t => (t.ph, t.errcode, t.thresh)) = some (.err, some .encodingError, 128#8) := by decide

/-- CF5. -/
theorem test_setm_writes_ctrl : (after 0x4005#16 State.reset).map ctrl = some 0b101#3 := by decide

/-- CF6, its second word. -/
theorem test_setm_writes_both : (after 0x4004#16 { State.reset with mode := .ordered }).map ctrl = some 0b100#3 := by decide

/-- FC4. -/
theorem test_start_begins : (after 0x5000#16 (idleAt 1 1 .threshold)).map
    (fun t => (t.ph, t.bytes, t.lb.read 0, t.lb.read 4095)) = some (.run, [0x00#8], 0#12, 0#12) := by decide

/-- FC9. -/
theorem test_start_too_wide : (after 0x5000#16 (narrow (idleAt 65 1 .threshold))).map (fun t => (statusPins t, t.bytes)) =
    some (0b01010#5, []) := by decide

/-- E4: a division that truncates toward zero; all of the step's writes. -/
theorem test_pix_diffuse : (after 0x6080#16 { runAt 8 2 2 0 .diffuse with
      c7 := BitVec.ofInt 11 (-497), c51 := BitVec.ofInt 11 (-227), c1 := BitVec.ofInt 9 (-71) }).map
    (fun t => (t.pixels.map PixelRecord.m, (t.lb.read 2).toInt, t.c51.toInt, t.c1.toInt, t.c7.toInt)) =
    some ([false], 64, 414, 97, 679) := by decide

/-- O4, the pixel (4, 1) of its frame: its map entry is 200, and it ends the frame with a padded byte. -/
theorem test_pix_ordered : (after 0x6008#16 { runAt 5 2 4 1 .ordered with sr := 0x30#8 }).map
    (fun t => (t.bytes, t.ph, t.done, t.x, t.y)) = some ([0x38#8], .idle, true, 0#12, 2#12) := by decide

/-- P5, its RST. -/
theorem test_rst_clears : (after 0xF000#16 { runAt 2 2 1 1 .threshold with
      ph := .err, errcode := some .encodingError, sr := 0x80#8 }).map
    (fun t => (t.width, t.sr, t.x, statusPins t, t.bytes)) = some (0#12, 0#8, 0#12, 0#5, []) := by decide

/-- How the host places a table row's word. -/
theorem test_withFetchWord : (match step (State.reset.withFetchWord 16 0x1080) with
    | .next t => t.width
    | .fault _ => 0#12
    | .refused _ => 0#12) = 128#12 := by decide

/-! ### States that satisfy the invariant -/

theorem inv_idleAt (w h : Nat) (m : Mode) : Inv (idleAt w h m) where
  params := (by decide : defaultParams.wf = true)
  canonical := rfl
  indices := by simp [idleAt, State.reset]
  errcode := by simp [idleAt, State.reset]
  running := by simp [idleAt, State.reset]
  finished := by simp [idleAt, State.reset]

theorem inv_failed (e : Cause) : Inv (failed e) where
  params := (by decide : defaultParams.wf = true)
  canonical := rfl
  indices := by simp [failed, State.reset]
  errcode := by simp [failed]
  running := by simp [failed]
  finished := by simp [failed]

theorem inv_runAt {w h x y : Nat} (m : Mode) (hw : w ≤ 4095) (hh : h ≤ 4095) (hx : x < w) (hy : y < h) :
    Inv (runAt w h x y m) where
  params := (by decide : defaultParams.wf = true)
  canonical := rfl
  indices := by simp [runAt, LineBuffer.zero]
  errcode := by simp [runAt, idleAt, State.reset]
  running _ :=
    { geometry := ⟨by simp [runAt, idleAt]; omega, by simp [runAt, idleAt, State.reset, defaultParams]; omega,
        by simp [runAt, idleAt]; omega⟩
      x_lt := by simp [runAt, idleAt]; omega
      y_lt := by simp [runAt, idleAt]; omega
      not_done := rfl
      bc_eq := by simp only [runAt, idleAt, BitVec.toNat_ofNat]; omega
      sr_low := by simp [runAt, idleAt, State.reset]
      row_start := fun _ => ⟨rfl, rfl, rfl⟩
      buffer := rfl
      undiffused := fun _ => ⟨⟨rfl, rfl, rfl⟩, fun _ => rfl⟩ }
  finished := by simp [runAt]

theorem good_idleAt : GoodGeometry (idleAt 1 1 .threshold) ∧ GoodGeometry (idleAt 1 1 .diffuse) ∧
    GoodGeometry (idleAt 4095 1 .ordered) :=
  ⟨⟨by decide, by decide, by decide⟩, ⟨by decide, by decide, by decide⟩, ⟨by decide, by decide, by decide⟩⟩

/-! ### Witnesses: encoding -/

theorem witness_DecodeInvertsEncode : (Instr.setm 2#2 true).wellFormed = true ∧ Instr.start.wellFormed = true := by decide

theorem witness_DecodedWordsAreEncodings : decode 0x4006#16 = .command (.setm 2#2 true) := by decide

theorem witness_DecodeFollowsOpcodeMap :
    (∃ r ∈ opcodeRows, r.mnemonic = "SETM" ∧ r.holds 0x4006#16 = true) ∧
    (∀ r ∈ opcodeRows, r.holds 0x4007#16 = false) := by decide

theorem witness_IllegalWordsRaiseIllegalCommand :
    (∀ w ∈ [0x0FFF#16, 0xEFFF#16, 0x3100#16, 0x4003#16, 0x4008#16, 0xF001#16], ∃ why, decode w = .illegal why) ∧
    (present 0x4003#16 State.reset).input = .command 0x4003#16 :: [] ∧ (present 0x4003#16 State.reset).ph ≠ .err ∧
    (present 0x4003#16 (failed .encodingError)).ph = .err := by
  refine ⟨?_, by decide⟩
  intro w hw
  simp only [List.mem_cons, List.not_mem_nil, or_false] at hw
  rcases hw with rfl | rfl | rfl | rfl | rfl | rfl <;> exact ⟨_, rfl⟩

theorem witness_OperandsAreLowBits : decode 0x1FFF#16 = .command (.setw 4095#12) ∧
    decode 0x2001#16 = .command (.seth 1#12) ∧ decode 0x30FF#16 = .command (.sett 255#8) ∧
    decode 0x60FF#16 = .command (.pix 255#8) ∧ decode 0x4006#16 = .command (.setm 2#2 true) := by decide

/-! ### Witnesses: the step function -/

theorem witness_StepRunsDecodedCommand : (present 0x60FF#16 (runAt 1 1 0 0 .diffuse)).input = [.command 0x60FF#16] ∧
    decode 0x60FF#16 = .command (.pix 255#8) := by decide

theorem witness_StepWithNothingPresentedHoldsState : (runAt 2 2 1 1 .diffuse).input = [] := by decide

/-- One word for each clause, in its phase. -/
theorem witness_StepTestsInOrder :
    decode 0xF000#16 = .command .rst ∧ (present 0xF000#16 (failed .invalidGeometry)).input = [.command 0xF000#16] ∧
    (decode 0x6000#16 ≠ .command .rst ∧ (present 0x6000#16 (failed .invalidGeometry)).ph = .err) ∧
    ((present 0x3100#16 (runAt 1 1 0 0 .ordered)).ph ≠ .err ∧ decode 0x3100#16 = .illegal .mustBeZero) ∧
    ((present 0x5000#16 (runAt 1 1 0 0 .ordered)).ph = .run ∧ decode 0x5000#16 = .command .start) ∧
    ((present 0x4006#16 (runAt 1 1 0 0 .ordered)).ph = .run ∧ decode 0x4006#16 = .command (.setm 2#2 true) ∧
      isConfiguration (.setm 2#2 true) = true) ∧
    ((present 0x60FF#16 State.reset).ph = .idle ∧ decode 0x60FF#16 = .command (.pix 255#8)) ∧
    ((present 0x1FFF#16 State.reset).ph = .idle ∧ decode 0x1FFF#16 = .command (.setw 4095#12) ∧
      isConfiguration (.setw 4095#12) = true) ∧
    (present 0x60FF#16 (runAt 1 1 0 0 .diffuse)).ph = .run := by decide

/-- Presenting a word keeps the invariant, so the states of the small library meet the premises. -/
theorem inv_present {s : State} (w : Word) (h : Inv s) : Inv (present w s) where
  params := h.params
  canonical := h.canonical
  indices := h.indices
  errcode := h.errcode
  running := fun hp =>
    have f := h.running hp
    { geometry := ⟨f.geometry.width_pos, f.geometry.width_le, f.geometry.height_pos⟩
      x_lt := f.x_lt, y_lt := f.y_lt, not_done := f.not_done, bc_eq := f.bc_eq, sr_low := f.sr_low
      row_start := f.row_start, buffer := f.buffer, undiffused := f.undiffused }
  finished := fun hp hd => ⟨(h.finished hp hd).1, (h.finished hp hd).2, (h.finished hp hd).3, (h.finished hp hd).4⟩

/-- The pixel clauses of the transition table: inside a row, at its end, and at the end of the frame. -/
theorem witness_SequencerFollowsTransitionTable_pixels :
    (Inv (present 0x6000#16 (runAt 9 2 7 0 .diffuse)) ∧ (runAt 9 2 7 0 .diffuse).x.toNat < 9 - 1 ∧
      ∃ t, step (present 0x6000#16 (runAt 9 2 7 0 .diffuse)) = .next t) ∧
    (Inv (present 0x6000#16 (runAt 9 2 8 0 .diffuse)) ∧ (runAt 9 2 8 0 .diffuse).x.toNat = 9 - 1 ∧
      ∃ t, step (present 0x6000#16 (runAt 9 2 8 0 .diffuse)) = .next t) ∧
    (Inv (present 0x6000#16 (runAt 9 2 8 1 .diffuse)) ∧ (runAt 9 2 8 1 .diffuse).y.toNat = 2 - 1 ∧
      ∃ t, step (present 0x6000#16 (runAt 9 2 8 1 .diffuse)) = .next t) :=
  ⟨⟨inv_present _ (inv_runAt _ (by omega) (by omega) (by omega) (by omega)), by decide, _, rfl⟩,
   ⟨inv_present _ (inv_runAt _ (by omega) (by omega) (by omega) (by omega)), by decide, _, rfl⟩,
   ⟨inv_present _ (inv_runAt _ (by omega) (by omega) (by omega) (by omega)), by decide, _, rfl⟩⟩

/-- The START clauses of the transition table: each bad geometry, and a good one. -/
theorem witness_SequencerFollowsTransitionTable_start :
    (Inv (present 0x5000#16 (idleAt 0 1 .threshold)) ∧ ∃ t, step (present 0x5000#16 (idleAt 0 1 .threshold)) = .next t) ∧
    (Inv (present 0x5000#16 (idleAt 1 0 .threshold)) ∧ ∃ t, step (present 0x5000#16 (idleAt 1 0 .threshold)) = .next t) ∧
    (Inv (present 0x5000#16 (narrow (idleAt 65 1 .threshold))) ∧
      (narrow (idleAt 65 1 .threshold)).params.wMax < (narrow (idleAt 65 1 .threshold)).width.toNat ∧
      ∃ t, step (present 0x5000#16 (narrow (idleAt 65 1 .threshold))) = .next t) ∧
    (Inv (present 0x5000#16 (idleAt 4095 1 .ordered)) ∧ GoodGeometry (present 0x5000#16 (idleAt 4095 1 .ordered)) ∧
      ∃ t, step (present 0x5000#16 (idleAt 4095 1 .ordered)) = .next t) :=
  ⟨⟨inv_present _ (inv_idleAt ..), _, rfl⟩, ⟨inv_present _ (inv_idleAt ..), _, rfl⟩,
   ⟨inv_present _
      { params := by decide, canonical := by decide, indices := by simp [narrow, idleAt, State.reset]
        errcode := by simp [narrow, idleAt, State.reset], running := by simp [narrow, idleAt, State.reset]
        finished := by simp [narrow, idleAt, State.reset] }, by decide, _, rfl⟩,
   ⟨inv_present _ (inv_idleAt ..), ⟨by decide, by decide, by decide⟩, _, rfl⟩⟩

/-- The other clauses of the transition table. -/
theorem witness_SequencerFollowsTransitionTable_rest :
    (Inv (present 0xF000#16 (failed .illegalCommand)) ∧ ∃ t, step (present 0xF000#16 (failed .illegalCommand)) = .next t) ∧
    (Inv (present 0x0000#16 (failed .illegalCommand)) ∧ decode 0x0000#16 ≠ .command .rst ∧
      ∃ t, step (present 0x0000#16 (failed .illegalCommand)) = .next t) ∧
    (Inv (present 0x4003#16 (runAt 1 1 0 0 .diffuse)) ∧ ∃ t, step (present 0x4003#16 (runAt 1 1 0 0 .diffuse)) = .next t) ∧
    (Inv (present 0x4006#16 (idleAt 0 0 .diffuse)) ∧ ∃ t, step (present 0x4006#16 (idleAt 0 0 .diffuse)) = .next t) ∧
    (Inv (present 0x60FF#16 (idleAt 0 0 .diffuse)) ∧ ∃ t, step (present 0x60FF#16 (idleAt 0 0 .diffuse)) = .next t) ∧
    (Inv (present 0x5000#16 (runAt 1 1 0 0 .diffuse)) ∧ ∃ t, step (present 0x5000#16 (runAt 1 1 0 0 .diffuse)) = .next t) :=
  ⟨⟨inv_present _ (inv_failed _), _, rfl⟩, ⟨inv_present _ (inv_failed _), by decide, _, rfl⟩,
   ⟨inv_present _ (inv_runAt _ (by omega) (by omega) (by omega) (by omega)), _, rfl⟩,
   ⟨inv_present _ (inv_idleAt ..), _, rfl⟩, ⟨inv_present _ (inv_idleAt ..), _, rfl⟩,
   ⟨inv_present _ (inv_runAt _ (by omega) (by omega) (by omega) (by omega)), _, rfl⟩⟩

theorem witness_StepTakesOneHostEvent : (∃ t, step (present 0x1001#16 State.reset) = .next t) ∧
    ∃ t, step State.reset = .next t := ⟨⟨_, rfl⟩, _, rfl⟩

/-! ### Witnesses: configuration, START, RST -/

theorem witness_ConfigurationOnlyInIdle : (idleAt 0 0 .threshold).ph = .idle ∧ (runAt 1 1 0 0 .threshold).ph = .run ∧
    (failed .encodingError).ph = .err ∧ isConfiguration (.setm 2#2 true) = true ∧
    (Instr.setm 2#2 true).wellFormed = true := by decide

theorem witness_SetwStoresWidth : (idleAt 0 0 .threshold).ph = .idle ∧ (runAt 1 1 0 0 .threshold).ph = .run ∧
    (0#12).toNat = 0 ∧ (narrow State.reset).ph = .idle ∧ (narrow State.reset).params.wMax < (65#12).toNat := by decide

theorem witness_SethStoresHeight : (idleAt 1 1 .threshold).ph = .idle ∧ (runAt 1 1 0 0 .threshold).ph = .run ∧
    (0#12).toNat = 0 ∧ (4095#12).toNat ≠ 0 ∧ (idleAt 4095 1 .threshold).ph = .idle ∧
    (idleAt 4095 1 .threshold).width.toNat ≠ 0 ∧
    (idleAt 4095 1 .threshold).width.toNat ≤ (idleAt 4095 1 .threshold).params.wMax := by decide

theorem witness_SettSetsTheCutoff : (idleAt 1 1 .threshold).ph = .idle ∧ (runAt 1 1 0 0 .threshold).ph = .run ∧
    (runAt 1 1 0 0 .threshold).mode = .threshold ∧ (runAt 1 1 0 0 .threshold).thresh = 128#8 := by decide

theorem witness_SetmWritesBothFields : (2#2 ≠ 3#2) ∧ (idleAt 1 1 .threshold).ph = .idle ∧
    (runAt 1 1 0 0 .threshold).ph = .run := by decide

theorem witness_ReservedModeActsAsIllegalWord :
    (present (encode (.setm 3#2 true)) (runAt 1 1 0 0 .ordered)).input = [.command 0x4007#16] := by decide

theorem witness_StartBeginsFrame : (idleAt 4095 1 .diffuse).ph = .idle ∧ (idleAt 4095 1 .diffuse).width ≠ 0#12 ∧
    (idleAt 4095 1 .diffuse).height ≠ 0#12 ∧
    (idleAt 4095 1 .diffuse).width.toNat ≤ (idleAt 4095 1 .diffuse).params.wMax := by decide

theorem witness_InvalidGeometryOnlyByStart : (idleAt 0 1 .threshold).width = 0#12 ∧ (idleAt 1 0 .threshold).height = 0#12 ∧
    (narrow (idleAt 65 1 .threshold)).params.wMax < (narrow (idleAt 65 1 .threshold)).width.toNat ∧
    ∃ t, exec .start (idleAt 1 0 .threshold) = .next t ∧ t.errcode = some .invalidGeometry ∧
      (idleAt 1 0 .threshold).errcode ≠ some .invalidGeometry := ⟨by decide, by decide, by decide, _, rfl, by decide⟩

/-! ### Witnesses: PIX -/

theorem witness_PixInThresholdMode : (runAt 9 1 8 0 .threshold).ph = .run ∧ (runAt 9 1 8 0 .threshold).mode = .threshold := by
  decide

theorem witness_PixInOrderedMode : (runAt 5 2 4 1 .ordered).ph = .run ∧ (runAt 5 2 4 1 .ordered).mode = .ordered ∧
    defaultOrdMap.rows[1 % 4]? = some #v[200#8, 72#8, 232#8, 104#8] ∧
    (#v[200#8, 72#8, 232#8, 104#8] : Vector Byte 4)[4 % 4]? = some 200#8 := by decide

/-- Inside a row, and at the end of the widest one. -/
theorem witness_PixInDiffuseMode : (runAt 4095 1 0 0 .diffuse).ph = .run ∧ (runAt 4095 1 0 0 .diffuse).mode = .diffuse ∧
    (runAt 4095 1 0 0 .diffuse).params.diffusion = .floydSteinberg ∧ (runAt 4095 1 0 0 .diffuse).lb.wf = true ∧
    (runAt 4095 1 0 0 .diffuse).x.toNat + 1 ≤ (runAt 4095 1 0 0 .diffuse).params.wMax ∧
    (runAt 4095 1 4094 0 .diffuse).x.toNat + 1 ≤ (runAt 4095 1 4094 0 .diffuse).params.wMax ∧
    atRowEnd (runAt 4095 1 4094 0 .diffuse) := by decide

theorem witness_PixUnderAnotherDiffusion : (otherKernel (runAt 4095 1 4094 0 .diffuse)).ph = .run ∧
    (otherKernel (runAt 4095 1 4094 0 .diffuse)).mode = .diffuse ∧
    (otherKernel (runAt 4095 1 4094 0 .diffuse)).params.diffusion = .other 0 ∧
    (otherKernel (runAt 4095 1 4094 0 .diffuse)).x.toNat + 1 ≤ (otherKernel (runAt 4095 1 4094 0 .diffuse)).params.wMax := by
  decide

theorem witness_EncodingErrorExactlyOutOfPhase : (runAt 1 1 0 0 .diffuse).ph = .run ∧ Instr.start.wellFormed = true ∧
    State.reset.ph = .idle ∧ ∃ t, exec (.pix 0#8) State.reset = .next t ∧ t.errcode = some .encodingError ∧
      State.reset.errcode ≠ some .encodingError := ⟨by decide, by decide, by decide, _, rfl, by decide⟩

/-! ### Witnesses: faults -/

theorem witness_FaultEntryWritesTwoRegisters : ∃ t, step (present 0x4003#16 (runAt 2 1 1 0 .diffuse)) = .next t ∧
    (present 0x4003#16 (runAt 2 1 1 0 .diffuse)).ph ≠ .err ∧ t.ph = .err := ⟨_, rfl, by decide⟩

theorem witness_ErrIgnoresAllButRst : (present 0xF001#16 (failed .invalidGeometry)).ph = .err ∧
    (present 0xF001#16 (failed .invalidGeometry)).input = [.command 0xF001#16] ∧ 0xF001#16 ≠ 0xF000#16 := by decide

theorem witness_OnlyResetLeavesErr : (∃ t, step (present 0xF000#16 (failed .encodingError)) = .next t ∧ t.ph ≠ .err) ∧
    ∃ t, step { failed .encodingError with input := [.resetPin] } = .next t ∧ t.ph ≠ .err :=
  ⟨⟨_, rfl, by decide⟩, _, rfl, by decide⟩

/-! ### Witnesses: invariants -/

theorem witness_EveryStepKeepsInvariant : Inv (present 0x60FF#16 (runAt 2 2 1 1 .diffuse)) ∧
    ∃ t, step (present 0x60FF#16 (runAt 2 2 1 1 .diffuse)) = .next t :=
  ⟨inv_present _ (inv_runAt _ (by omega) (by omega) (by omega) (by omega)), _, rfl⟩

theorem witness_StepNeverStops : Inv (present 0x60FF#16 (runAt 4095 1 4094 0 .diffuse)) :=
  inv_present _ (inv_runAt _ (by omega) (by omega) (by omega) (by omega))

/-- A START, a pixel inside a row, the end of a row, and the end of the frame. -/
theorem witness_BytesEmittedSinceStart :
    (∃ t, exec .start (idleAt 1 1 .threshold) = .next t) ∧
    (Inv (runAt 9 2 7 0 .threshold) ∧ bytesSince 0 { runAt 9 2 7 0 .threshold with bytes := [0x00#8] } ∧
      ∃ t, exec (.pix 0#8) { runAt 9 2 7 0 .threshold with bytes := [0x00#8] } = .next t ∧ t.ph = .run) ∧
    (Inv (runAt 1 1 0 0 .threshold) ∧ bytesSince 0 { runAt 1 1 0 0 .threshold with bytes := [0x00#8] } ∧
      ∃ t, exec (.pix 0#8) { runAt 1 1 0 0 .threshold with bytes := [0x00#8] } = .next t ∧ t.ph = .idle) :=
  ⟨⟨_, rfl⟩, ⟨inv_runAt _ (by omega) (by omega) (by omega) (by omega), rfl, _, rfl, by decide⟩,
   ⟨inv_runAt _ (by omega) (by omega) (by omega) (by omega), rfl, _, rfl, by decide⟩⟩

theorem inRanges_runAt (w h x y : Nat) (m : Mode) : InRanges (runAt w h x y m) where
  c7 := by constructor <;> simp [runAt, idleAt, State.reset]
  c51 := by constructor <;> simp [runAt, idleAt, State.reset]
  c1 := by constructor <;> simp [runAt, idleAt, State.reset]
  lb := fun i => by
    have : (runAt w h x y m).lb.read i = 0#12 := rfl
    constructor <;> simp [this]

/-- Both branches: luminance 128 is off, 129 is on (95_test_vectors.md E1, E2). -/
theorem witness_DiffusionStaysInRange :
    (GoodGeometry (idleAt 1 1 .diffuse) ∧ ∃ t, exec .start (idleAt 1 1 .diffuse) = .next t) ∧ InRanges (runAt 2 1 0 0 .diffuse) ∧ (runAt 2 1 0 0 .diffuse).lb.wf = true ∧
    (runAt 2 1 0 0 .diffuse).params.diffusion = .floydSteinberg ∧
    diffuseBit (correctedLum 128#8 (incomingError (runAt 2 1 0 0 .diffuse))) = false ∧
    diffuseBit (correctedLum 129#8 (incomingError (runAt 2 1 0 0 .diffuse))) = true ∧
    ∃ t, exec (.pix 129#8) (runAt 2 1 0 0 .diffuse) = .next t :=
  ⟨⟨good_idleAt.2.1, _, rfl⟩, inRanges_runAt .., by decide, by decide, by decide, by decide, _, rfl⟩

/-- The state of 95_test_vectors.md E3 (one pixel of luminance 128 done, 2 by 2) tracks the picture that is 128 everywhere. -/
theorem witness_DiffusionTracksThePicture :
    (∃ t, exec .start (idleAt 2 2 .diffuse) = .next t) ∧
    DiffusionTracks (fun _ _ => 128#8) { runAt 2 2 1 0 .diffuse with
      c7 := 896#11, c51 := 640#11, c1 := 128#9, lb := { cells := [(0, 384#12)], fill := .zero } } ∧
    ∃ t, exec (.pix 128#8) { runAt 2 2 1 0 .diffuse with
      c7 := 896#11, c51 := 640#11, c1 := 128#9, lb := { cells := [(0, 384#12)], fill := .zero } } = .next t ∧ t.ph = .run := by
  refine ⟨⟨_, rfl⟩, ⟨by decide, by decide, by decide, ?_, ?_, by decide⟩, _, rfl, by decide⟩
  · intro i h1 _ h2
    have h3 : i = 1 ∨ i = 2 := by change i ≤ 2 at h2; omega
    rcases h3 with rfl | rfl <;> decide
  · intro i h1 h2
    change i < 1 at h2
    omega

theorem witness_PictureErrorsSatisfyTheEquation : (0 : Nat) < 1 ∧ ((-1 : Int) < 0) ∧ ((1 : Nat) : Int) ≤ 1 := by decide

/-! ### Witnesses: emissions -/

theorem witness_EmissionsByCommand :
    (∃ t, exec (.setw 1#12) State.reset = .next t) ∧
    (∃ t, exec .start (idleAt 1 1 .threshold) = .next t ∧ t.ph = .run ∧ (idleAt 1 1 .threshold).ph = .idle) ∧
    (∃ t, exec .start State.reset = .next t ∧ t.ph ≠ .run) ∧
    (∃ t, exec (.pix 0#8) (runAt 9 1 7 0 .threshold) = .next t ∧ (runAt 9 1 7 0 .threshold).bc = 7#3) ∧
    (∃ t, exec (.pix 0#8) (runAt 9 1 8 0 .threshold) = .next t ∧ (runAt 9 1 8 0 .threshold).x.toNat + 1 = 9) ∧
    ∃ t, exec (.pix 0#8) (failed .encodingError) = .next t :=
  ⟨⟨_, rfl⟩, ⟨_, rfl, by decide⟩, ⟨_, rfl, by decide⟩, ⟨_, rfl, by decide⟩, ⟨_, rfl, by decide⟩, _, rfl⟩

theorem witness_EmissionsAreNeverRetracted : ∃ t, runSteps 1 (present 0x6000#16 (runAt 1 1 0 0 .threshold)) = .next t :=
  ⟨_, rfl⟩

theorem witness_PixelRecordsAreThreeWords :
    (∃ t, exec (.pix 0#8) (runAt 1 1 0 0 .threshold) = .next t) ∧ (runAt 1 1 0 0 .threshold).bg = false ∧
    ∃ t, exec (.pix 255#8) { runAt 1 1 0 0 .threshold with bg := true } = .next t := ⟨⟨_, rfl⟩, rfl, _, rfl⟩

theorem witness_PackerPlacesBitsFromTheTop :
    (Inv (runAt 9 1 0 0 .threshold) ∧ ∃ t, exec (.pix 0#8) (runAt 9 1 0 0 .threshold) = .next t) ∧
    (Inv (runAt 9 1 7 0 .threshold) ∧ ∃ t, exec (.pix 0#8) (runAt 9 1 7 0 .threshold) = .next t) ∧
    (Inv (runAt 9 1 8 0 .threshold) ∧ ∃ t, exec (.pix 0#8) (runAt 9 1 8 0 .threshold) = .next t) :=
  ⟨⟨inv_runAt _ (by omega) (by omega) (by omega) (by omega), _, rfl⟩,
   ⟨inv_runAt _ (by omega) (by omega) (by omega) (by omega), _, rfl⟩,
   ⟨inv_runAt _ (by omega) (by omega) (by omega) (by omega), _, rfl⟩⟩

theorem witness_DoneChangesOnlyAtFrameBounds :
    (∃ t, exec (.pix 0#8) (runAt 1 1 0 0 .threshold) = .next t ∧ (runAt 1 1 0 0 .threshold).done = false ∧ t.done = true) ∧
    (∃ t, exec .start (finished 1 1) = .next t ∧ (finished 1 1).done = true ∧ t.done = false) ∧
    ∃ t, exec .rst (finished 1 1) = .next t ∧ t.done = false :=
  ⟨⟨_, rfl, by decide⟩, ⟨_, rfl, by decide⟩, _, rfl, by decide⟩

theorem witness_ConfigurationConstantInFrame : (runAt 1 1 0 0 .threshold).ph = .run ∧
    (∃ t, exec (.setw 5#12) (runAt 1 1 0 0 .threshold) = .next t) ∧ ∃ t, step State.reset = .next t :=
  ⟨rfl, ⟨_, rfl⟩, _, rfl⟩

/-! ### Witnesses: whole frames -/

/-- One pixel in each mode, with a command after the frame. -/
def frame1 (m : Mode) (p : Byte) (rest : List HostEvent) : State :=
  { idleAt 1 1 m with input := frameCommands [p] ++ rest }

theorem ready_frame1 (m : Mode) (p : Byte) (rest : List HostEvent) : FrameReady (frame1 m p rest) [p] rest :=
  ⟨rfl, ⟨(by decide : 1 ≤ 1), (by decide : 1 ≤ 4095), (by decide : 1 ≤ 1)⟩, rfl, rfl⟩

theorem witness_FrameEmitsItsPayload : FrameReady (frame1 .diffuse 0#8 [.resetPin]) [0#8] [.resetPin] := ready_frame1 ..

theorem witness_PayloadGivesBackThePicture : FrameReady (frame1 .diffuse 0#8 []) [0#8] [] ∧
    ∃ t, runSteps (1 + 1) (frame1 .diffuse 0#8 []) = .next t := ⟨ready_frame1 .., _, rfl⟩

theorem witness_PlainFramesFollowTheComparator :
    (FrameReady (frame1 .threshold 128#8 []) [128#8] [] ∧ ∃ t, runSteps (1 + 1) (frame1 .threshold 128#8 []) = .next t) ∧
    FrameReady (frame1 .ordered 8#8 []) [8#8] [] ∧ ∃ t, runSteps (1 + 1) (frame1 .ordered 8#8 []) = .next t :=
  ⟨⟨ready_frame1 .., _, rfl⟩, ready_frame1 .., _, rfl⟩

theorem witness_DiffuseFramesFollowTheEquation : FrameReady (frame1 .diffuse 128#8 []) [128#8] [] ∧
    (frame1 .diffuse 128#8 []).params.diffusion = .floydSteinberg ∧
    ∃ t, runSteps (1 + 1) (frame1 .diffuse 128#8 []) = .next t := ⟨ready_frame1 .., rfl, _, rfl⟩

theorem witness_UniformDiffuseFrames :
    (FrameReady (frame1 .diffuse 255#8 []) (List.replicate 1 255#8) [] ∧
      ∃ t, runSteps (1 + 1) (frame1 .diffuse 255#8 []) = .next t) ∧
    FrameReady (frame1 .diffuse 0#8 []) (List.replicate 1 0#8) [] ∧
      ∃ t, runSteps (1 + 1) (frame1 .diffuse 0#8 []) = .next t :=
  ⟨⟨ready_frame1 .., _, rfl⟩, ready_frame1 .., _, rfl⟩

theorem witness_RaisingThresholdKeepsForeground : FrameReady (frame1 .threshold 100#8 []) [100#8] [] ∧
    (101#8).toNat < (102#8).toNat ∧
    (∃ t, runSteps (1 + 1) { frame1 .threshold 100#8 [] with thresh := 101#8 } = .next t ∧
      t.pixels[0]? = some (pixelRecord false false)) ∧
    ∃ u, runSteps (1 + 1) { frame1 .threshold 100#8 [] with thresh := 102#8 } = .next u :=
  ⟨ready_frame1 .., by decide, ⟨_, rfl, by decide⟩, _, rfl⟩

theorem witness_OrderedKeepsBlackAndWhite : defaultParams.wf = true ∧ (runAt 1 1 0 0 .ordered).ph = .run ∧
    (∃ t, exec (.pix 0#8) (runAt 1 1 0 0 .ordered) = .next t) ∧ ∃ t, exec (.pix 255#8) (runAt 1 1 0 0 .ordered) = .next t :=
  ⟨by decide, rfl, ⟨_, rfl⟩, _, rfl⟩

/-! ### Witnesses: two runs, and the assembler -/

theorem witness_BackgroundIsCosmetic : SameButPreview
    { runAt 2 1 1 0 .diffuse with pixels := [pixelRecord true false], input := [.command 0x60FF#16] }
    { runAt 2 1 1 0 .diffuse with bg := true, pixels := [pixelRecord true true], input := [.command 0x60FF#16] } :=
  ⟨rfl, rfl⟩

theorem witness_ThresholdIgnoredOutsideThresholdMode : (frame1 .ordered 8#8 []).mode ≠ .threshold ∧
    (frame1 .ordered 8#8 []).input = frameCommands [8#8] := by decide

/-- In IDLE the buffers may differ; in RUN they are the same. -/
theorem witness_BufferAfterResetIsUnobservable :
    SameButIdleBuffer State.reset { State.reset with lb := { cells := [(0, 1#12)], fill := .zero }, resets := 7 } ∧
    SameButIdleBuffer (runAt 1 1 0 0 .diffuse) { runAt 1 1 0 0 .diffuse with resets := 7 } :=
  ⟨⟨rfl, by simp [State.reset]⟩, rfl, fun _ => rfl⟩

theorem witness_FrameForgetsThePast :
    SameConfiguration (frame1 .diffuse 9#8 []) { frame1 .diffuse 9#8 [] with
      sr := 0xFF#8, c7 := 5#11, lb := { cells := [(0, 1#12)], fill := .unspecified 3 } } ∧
    (frame1 .diffuse 9#8 []).ph = .idle ∧ GoodGeometry (frame1 .diffuse 9#8 []) ∧
    (frame1 .diffuse 9#8 []).input = frameCommands [9#8] :=
  ⟨⟨rfl, rfl, rfl, rfl, rfl, rfl⟩, rfl, ⟨by decide, by decide, by decide⟩, by decide⟩

theorem witness_AssemblerEmitsLegalWords : (∀ n, AsmLine.setm 2 1 ≠ .word n) ∧
    assembleLine (.setm 2 1) = some [0x4006#16] ∧ (65535 ≤ 65535) ∧ (2#2 ≠ 3#2) ∧ (4095 < 4096) ∧ (255 < 256) ∧ (2 < 3) ∧
    (1 < 2) ∧ 256 ∈ [0, 256] := ⟨by simp, by decide⟩

theorem witness_PseudoInstructionsExpand : (2#2 ≠ 3#2) ∧ ([0#8] ≠ []) ∧ [0#8].length = (1#12).toNat * (1#12).toNat := by
  decide

end Sys2Proof.Machine
end

section
/-! The status pins (10_state.md R25): each field of the pins is the code of its register, and no two phases and no two
causes share a code. -/

namespace Sys2Proof.Machine

/-! ### The codes of PH and ERRCODE -/

theorem phaseCode_injective : Function.Injective phaseCode := by
  intro p q h
  cases p <;> cases q <;> simp [phaseCode] at h ⊢

/-- The code 3 of PH is held by no phase (10_state.md R26). -/
theorem phaseCode_ne_three (p : Phase) : phaseCode p ≠ 3#2 := by
  cases p <;> simp [phaseCode]

theorem errCode_injective : Function.Injective errCode := by
  intro c d h
  rcases c with _ | _ | _ | _ <;> rcases d with _ | _ | _ | _ <;> simp [errCode] at h ⊢

/-! ### The fields of the pins -/

@[simp] theorem statusPins_phaseField (s : State) : (statusPins s).extractLsb' 0 2 = phaseCode s.ph :=
  BitVec.extractLsb'_append_eq_right

@[simp] theorem statusPins_doneBit (s : State) : (statusPins s).getLsbD 2 = s.done := by
  rw [statusPins, BitVec.getLsbD_append, BitVec.getLsbD_append]
  simp

@[simp] theorem statusPins_errField (s : State) : (statusPins s).extractLsb' 3 2 = errCode s.errcode := by
  have aboveDone : (errCode s.errcode ++ BitVec.ofBool s.done).extractLsb' 1 2 = errCode s.errcode :=
    BitVec.extractLsb'_append_eq_left
  have abovePhase : (statusPins s).extractLsb' 3 2 =
      (errCode s.errcode ++ BitVec.ofBool s.done).extractLsb' 1 2 :=
    BitVec.extractLsb'_append_eq_of_le (by decide)
  exact abovePhase.trans aboveDone

theorem statusPins_phaseField_eq_iff (s : State) (p : Phase) :
    (statusPins s).extractLsb' 0 2 = phaseCode p ↔ s.ph = p := by
  rw [statusPins_phaseField, phaseCode_injective.eq_iff]

theorem statusPins_errField_eq_iff (s : State) (c : Option Cause) :
    (statusPins s).extractLsb' 3 2 = errCode c ↔ s.errcode = c := by
  rw [statusPins_errField, errCode_injective.eq_iff]

/-- Settles O41: each clause is the field's equivalence at one phase or cause, whose code is the clause's literal. -/
theorem statusPinsShowTheFlags : Obligations.StatusPinsShowTheFlags := by
  intro s
  refine ⟨?idle, ?run, ?err, ?noThird, ?done, ?none, ?geometry, ?encoding, ?illegal⟩
  case idle => exact statusPins_phaseField_eq_iff s .idle
  case run => exact statusPins_phaseField_eq_iff s .run
  case err => exact statusPins_phaseField_eq_iff s .err
  case noThird => rw [statusPins_phaseField]; exact phaseCode_ne_three s.ph
  case done => rw [statusPins_doneBit]
  case none => exact statusPins_errField_eq_iff s none
  case geometry => exact statusPins_errField_eq_iff s (some .invalidGeometry)
  case encoding => exact statusPins_errField_eq_iff s (some .encodingError)
  case illegal => exact statusPins_errField_eq_iff s (some .illegalCommand)

end Sys2Proof.Machine
end

section
/-! The payload format (20_memory.md R55 to R60): the bits of a byte, the bytes of a row, the rows of a picture, and the
way back from a payload to its picture. -/

namespace Sys2Proof.Machine

/-! ### The bits of a payload byte -/

theorem getLsbD_append_ofBool_zero {n : Nat} (v : BitVec n) (b : Bool) : (v ++ BitVec.ofBool b).getLsbD 0 = b :=
  BitVec.getLsbD_concat_zero

theorem getLsbD_append_ofBool_succ {n : Nat} (v : BitVec n) (b : Bool) (i : Nat) :
    (v ++ BitVec.ofBool b).getLsbD (i + 1) = v.getLsbD i := BitVec.getLsbD_concat_succ

/-- 20_memory.md R56: the first of the eight columns is bit 7. -/
theorem getLsbD_payloadByte (w : Nat) (m : Nat → Bool) (k : Nat) {i : Nat} (hi : i < 8) :
    (payloadByte w m k).getLsbD i = payloadBit w m (8 * k + (7 - i)) := by
  unfold payloadByte
  change BitVec.getLsbD (w := 1 + 1 + 1 + 1 + 1 + 1 + 1 + 1) _ _ = _
  interval_cases i <;>
    simp only [getLsbD_append_ofBool_succ, getLsbD_append_ofBool_zero, BitVec.getLsbD_ofBool, decide_true, Bool.true_and]
  rfl

/-- A byte is fixed by the bits of its eight columns. -/
theorem payloadByte_congr {w w' : Nat} {m : Nat → Bool} {k : Nat}
    (h : ∀ j < 8, payloadBit w m (8 * k + j) = payloadBit w' m (8 * k + j)) : payloadByte w m k = payloadByte w' m k := by
  refine BitVec.eq_of_getLsbD_eq fun i hi => ?_
  rw [getLsbD_payloadByte _ _ _ hi, getLsbD_payloadByte _ _ _ hi, h _ (by omega)]

/-- Where the row covers all eight columns of a byte, its width does not show in the byte. -/
theorem payloadByte_of_covered {w w' : Nat} {m : Nat → Bool} {k : Nat} (h : 8 * k + 8 ≤ w) (h' : 8 * k + 8 ≤ w') :
    payloadByte w m k = payloadByte w' m k := by
  refine payloadByte_congr fun j hj => ?_
  have hw : 8 * k + j < w := by omega
  have hw' : 8 * k + j < w' := by omega
  simp [payloadBit, hw, hw']

/-- A byte beyond the row is all padding (20_memory.md R58). -/
theorem payloadByte_of_beyond {w : Nat} {m : Nat → Bool} {k : Nat} (h : w ≤ 8 * k) : payloadByte w m k = 0#8 := by
  refine BitVec.eq_of_getLsbD_eq fun i hi => ?_
  have hc : ¬8 * k + (7 - i) < w := by omega
  simp [getLsbD_payloadByte _ _ _ hi, payloadBit, hc]

/-! ### Rows -/

@[simp] theorem payloadRow_length (w : Nat) (m : Nat → Bool) : (payloadRow w m).length = stride w := by
  simp [payloadRow]

@[simp] theorem payloadRows_zero (w : Nat) (m : Nat → Nat → Bool) : payloadRows w 0 m = [] := rfl

theorem payloadRows_succ (w h : Nat) (m : Nat → Nat → Bool) :
    payloadRows w (h + 1) m = payloadRows w h m ++ payloadRow w (m h) := by
  simp [payloadRows, List.range_succ]

@[simp] theorem payloadRows_length (w h : Nat) (m : Nat → Nat → Bool) :
    (payloadRows w h m).length = h * stride w := by
  simp [payloadRows]

/-- 20_memory.md R59. -/
theorem payloadOf_length (w h : Nat) (m : Nat → Nat → Bool) : (payloadOf w h m).length = 1 + h * stride w := by
  simp [payloadOf, Nat.add_comm]

/-- Byte `k` of row `y` stands `y` strides and `k` bytes after the header (20_memory.md R56). -/
theorem payloadRows_getElem? {w h y k : Nat} (m : Nat → Nat → Bool) (hy : y < h) (hk : k < stride w) :
    (payloadRows w h m)[y * stride w + k]? = some (payloadByte w (m y) k) := by
  induction h with
  | zero => exact absurd hy (Nat.not_lt_zero y)
  | succ h ih =>
    rw [payloadRows_succ]
    rcases Nat.lt_succ_iff_lt_or_eq.mp hy with hlt | rfl
    · have hrows : (y + 1) * stride w ≤ h * stride w := Nat.mul_le_mul_right _ hlt
      rw [Nat.succ_mul] at hrows
      rw [List.getElem?_append_left (by rw [payloadRows_length]; omega), ih hlt]
    · rw [List.getElem?_append_right (by simp)]
      simp [payloadRow, hk]

/-- 20_memory.md R60: unpacking inverts packing at every place inside the frame. -/
theorem unpackBit_payloadOf {w h x y : Nat} (m : Nat → Nat → Bool) (hx : x < w) (hy : y < h) :
    unpackBit (payloadOf w h m) w x y = m y x := by
  have hk : x / 8 < stride w := by unfold stride; omega
  have hbyte : (payloadOf w h m).getD (1 + y * stride w + x / 8) 0#8 = payloadByte w (m y) (x / 8) := by
    rw [List.getD_eq_getElem?_getD, show 1 + y * stride w + x / 8 = y * stride w + x / 8 + 1 by omega, payloadOf,
      List.getElem?_cons_succ, payloadRows_getElem? m hy hk, Option.getD_some]
  have hcolumn : 8 * (x / 8) + (7 - (7 - x % 8)) = x := by omega
  rw [unpackBit, hbyte, getLsbD_payloadByte _ _ _ (by omega), hcolumn]
  simp [payloadBit, hx]

/-! ### A payload under construction -/

/-- The payload bytes that are complete before the pixel of column `x` of row `y`: the header, the rows above, and the
full bytes of the row so far. -/
def payloadBefore (w : Nat) (m : Nat → Nat → Bool) (y x : Nat) : List Byte :=
  0x00#8 :: (payloadRows w y m ++ (List.range (x / 8)).map (payloadByte w (m y)))

theorem payloadBefore_first (w : Nat) (m : Nat → Nat → Bool) : payloadBefore w m 0 0 = [0x00#8] := by
  simp [payloadBefore]

theorem payloadBefore_rowStart (w h : Nat) (m : Nat → Nat → Bool) : payloadBefore w m h 0 = payloadOf w h m := by
  simp [payloadBefore, payloadOf]

theorem payloadBefore_midByte {w y x : Nat} (m : Nat → Nat → Bool) (h : x % 8 ≠ 7) :
    payloadBefore w m y (x + 1) = payloadBefore w m y x := by
  rw [payloadBefore, payloadBefore, show (x + 1) / 8 = x / 8 by omega]

theorem payloadBefore_byteEnd {w y x : Nat} (m : Nat → Nat → Bool) (h : x % 8 = 7) :
    payloadBefore w m y (x + 1) = payloadBefore w m y x ++ [payloadByte w (m y) (x / 8)] := by
  rw [payloadBefore, payloadBefore, show (x + 1) / 8 = x / 8 + 1 by omega]
  simp [List.range_succ]

theorem payloadBefore_rowEnd {w y x : Nat} (m : Nat → Nat → Bool) (h : x + 1 = w) :
    payloadBefore w m (y + 1) 0 = payloadBefore w m y x ++ [payloadByte w (m y) (x / 8)] := by
  have hs : stride w = x / 8 + 1 := by unfold stride; omega
  simp [payloadBefore, payloadRows_succ, payloadRow, hs, List.range_succ]

end Sys2Proof.Machine
end

section
/-! The packer over a picture (44_preview_and_packer.md R164 to R169): at every pixel the bytes emitted are the complete
part of the payload, and SR is the next byte of it, cut off at X. -/

namespace Sys2Proof.Machine

/-- A counter below another of its width does not wrap. -/
theorem toNat_add_one_of_lt {n : Nat} {a b : BitVec n} (h : a.toNat < b.toNat) : (a + 1#n).toNat = a.toNat + 1 := by
  have := b.isLt
  simp [Nat.mod_eq_of_lt (show a.toNat + 1 < 2 ^ n by omega)]

theorem lastOfRow_iff {s : State} : lastOfRow s = true ↔ s.x.toNat + 1 = s.width.toNat := by simp [lastOfRow]

theorem lastRow_iff {s : State} : lastRow s = true ↔ s.y.toNat + 1 = s.height.toNat := by simp [lastRow]

/-- 44_preview_and_packer.md R166: the placed bit joins SR at position `7 - BC`. -/
theorem getLsbD_place (b : Bool) (s : State) {i : Nat} (hi : i < 8) :
    (place b s).getLsbD i = (s.sr.getLsbD i || (decide (i = 7 - s.bc.toNat) && b)) := by
  have hbit : ((BitVec.ofBool b).setWidth 8 <<< (7 - s.bc.toNat)).getLsbD i = (decide (i = 7 - s.bc.toNat) && b) := by
    rw [BitVec.getLsbD_shiftLeft, BitVec.getLsbD_setWidth, BitVec.getLsbD_ofBool]
    rcases Nat.lt_trichotomy i (7 - s.bc.toNat) with hlt | heq | hgt
    · simp [hlt, hlt.ne]
    · simp [← heq, hi]
    · simp [hgt.ne', show i - (7 - s.bc.toNat) ≠ 0 by omega]
  rw [place, BitVec.getLsbD_or, hbit]

/-- The packer's registers and the byte stream before the pixel (X, Y) of the picture `m`, in a frame whose START found
`earlier` emitted. -/
structure Packed (m : Nat → Nat → Bool) (earlier : List Byte) (s : State) : Prop where
  bytes : s.bytes = earlier ++ payloadBefore s.width.toNat m s.y.toNat s.x.toNat
  sr : s.sr = payloadByte s.x.toNat (m s.y.toNat) (s.x.toNat / 8)
  bc : s.bc.toNat = s.x.toNat % 8

section Packed
variable {m : Nat → Nat → Bool} {earlier : List Byte} {s : State}

/-- Placing the payload bit of column X extends the byte under construction by that column. -/
theorem Packed.place_eq (h : Packed m earlier s) :
    place (!m s.y.toNat s.x.toNat) s = payloadByte (s.x.toNat + 1) (m s.y.toNat) (s.x.toNat / 8) := by
  refine BitVec.eq_of_getLsbD_eq fun i hi => ?_
  rw [getLsbD_place _ _ hi, h.sr, h.bc, getLsbD_payloadByte _ _ _ hi, getLsbD_payloadByte _ _ _ hi]
  generalize hc : 8 * (s.x.toNat / 8) + (7 - i) = c
  unfold payloadBit
  rcases Nat.lt_trichotomy c s.x.toNat with hlt | rfl | hgt
  · simp [hlt, show c < s.x.toNat + 1 by omega, show i ≠ 7 - s.x.toNat % 8 by omega]
  · simp [show i = 7 - s.x.toNat % 8 by omega]
  · simp [show ¬c < s.x.toNat by omega, show ¬c < s.x.toNat + 1 by omega, show i ≠ 7 - s.x.toNat % 8 by omega]

theorem Packed.flushes_iff (h : Packed m earlier s) :
    flushes s = true ↔ s.x.toNat % 8 = 7 ∨ s.x.toNat + 1 = s.width.toNat := by
  rw [flushes, Bool.or_eq_true, lastOfRow_iff, beq_iff_eq, ← h.bc, ← BitVec.toNat_inj]
  rfl

/-- A byte that is flushed is a byte of the payload (44_preview_and_packer.md R167, R168). -/
theorem Packed.place_eq_of_flushes (h : Packed m earlier s) (hx : s.x.toNat < s.width.toNat) (hf : flushes s = true) :
    place (!m s.y.toNat s.x.toNat) s = payloadByte s.width.toNat (m s.y.toNat) (s.x.toNat / 8) := by
  rw [h.place_eq]
  rcases h.flushes_iff.mp hf with hbc | hend
  · exact payloadByte_of_covered (by omega) (by omega)
  · rw [hend]

/-- A START leaves the packer before the first pixel of every picture (41_frame_control.md R122, R123). -/
theorem packed_beginFrame (m : Nat → Nat → Bool) (s : State) : Packed m s.bytes (beginFrame s) where
  bytes := by simp [payloadBefore_first, headerByte]
  sr := by simp [payloadByte_of_beyond]
  bc := by simp

/-- A PIX in the middle of a byte: the bit joins SR. -/
theorem Packed.pixelStep_midByte {p : Byte} (h : Packed m earlier s) (hx : s.x.toNat < s.width.toNat)
    (hm : (quantize p s).1 = m s.y.toNat s.x.toNat) (hbyte : s.x.toNat % 8 ≠ 7) (hend : s.x.toNat + 1 ≠ s.width.toNat) :
    Packed m earlier (pixelStep p s) := by
  have hlast : ¬lastOfRow s = true := fun hl => hend (lastOfRow_iff.mp hl)
  have hf : ¬flushes s = true := fun hf => (h.flushes_iff.mp hf).elim hbyte hend
  have hcol : (pixelStep p s).x.toNat = s.x.toNat + 1 := by
    rw [pixelStep_x, if_neg hlast, toNat_add_one_of_lt hx]
  have hrow : (pixelStep p s).y = s.y := by rw [pixelStep_y, if_neg hlast]
  refine ⟨?_, ?_, ?_⟩
  · rw [pixelStep_bytes, if_neg hf, List.append_nil, h.bytes, hcol, hrow, pixelStep_width, payloadBefore_midByte m hbyte]
  · rw [pixelStep_sr, if_neg hf, hm, h.place_eq, hcol, hrow, show (s.x.toNat + 1) / 8 = s.x.toNat / 8 by omega]
  · have hbc : s.bc.toNat < (7#3).toNat := by
      change s.bc.toNat < 7
      have := h.bc
      omega
    rw [pixelStep_bc, if_neg hf, toNat_add_one_of_lt hbc, h.bc, hcol]
    omega

/-- A PIX that fills a byte inside a row: the byte is emitted and SR is empty. -/
theorem Packed.pixelStep_byteEnd {p : Byte} (h : Packed m earlier s) (hx : s.x.toNat < s.width.toNat)
    (hm : (quantize p s).1 = m s.y.toNat s.x.toNat) (hbyte : s.x.toNat % 8 = 7) (hend : s.x.toNat + 1 ≠ s.width.toNat) :
    Packed m earlier (pixelStep p s) := by
  have hlast : ¬lastOfRow s = true := fun hl => hend (lastOfRow_iff.mp hl)
  have hf : flushes s = true := h.flushes_iff.mpr (.inl hbyte)
  have hcol : (pixelStep p s).x.toNat = s.x.toNat + 1 := by
    rw [pixelStep_x, if_neg hlast, toNat_add_one_of_lt hx]
  have hrow : (pixelStep p s).y = s.y := by rw [pixelStep_y, if_neg hlast]
  refine ⟨?_, ?_, ?_⟩
  · rw [pixelStep_bytes, if_pos hf, hm, h.place_eq_of_flushes hx hf, h.bytes, hcol, hrow, pixelStep_width,
      payloadBefore_byteEnd m hbyte, List.append_assoc]
  · rw [pixelStep_sr, if_pos hf, hcol, payloadByte_of_beyond (by omega)]
  · rw [pixelStep_bc, if_pos hf, hcol, BitVec.toNat_zero]
    omega

/-- The last PIX of a row: the byte is emitted with its padding, SR is empty and the next row begins. -/
theorem Packed.pixelStep_rowEnd {p : Byte} (h : Packed m earlier s) (hx : s.x.toNat < s.width.toNat)
    (hy : s.y.toNat < s.height.toNat) (hm : (quantize p s).1 = m s.y.toNat s.x.toNat)
    (hend : s.x.toNat + 1 = s.width.toNat) : Packed m earlier (pixelStep p s) := by
  have hlast : lastOfRow s = true := lastOfRow_iff.mpr hend
  have hf : flushes s = true := h.flushes_iff.mpr (.inr hend)
  have hcol : (pixelStep p s).x.toNat = 0 := by rw [pixelStep_x, if_pos hlast]; rfl
  have hrow : (pixelStep p s).y.toNat = s.y.toNat + 1 := by rw [pixelStep_y, if_pos hlast, toNat_add_one_of_lt hy]
  refine ⟨?_, ?_, ?_⟩
  · rw [pixelStep_bytes, if_pos hf, hm, h.place_eq_of_flushes hx hf, h.bytes, hcol, hrow, pixelStep_width,
      payloadBefore_rowEnd m hend, List.append_assoc]
  · rw [pixelStep_sr, if_pos hf, hcol, payloadByte_of_beyond (Nat.zero_le _)]
  · rw [pixelStep_bc, if_pos hf, hcol]
    rfl

/-- A PIX whose monochrome bit is the picture's moves the packer to the next pixel of the picture. -/
theorem Packed.pixelStep {p : Byte} (h : Packed m earlier s) (hx : s.x.toNat < s.width.toNat)
    (hy : s.y.toNat < s.height.toNat) (hm : (quantize p s).1 = m s.y.toNat s.x.toNat) :
    Packed m earlier (pixelStep p s) := by
  by_cases hend : s.x.toNat + 1 = s.width.toNat
  · exact h.pixelStep_rowEnd hx hy hm hend
  · by_cases hbyte : s.x.toNat % 8 = 7
    · exact h.pixelStep_byteEnd hx hm hbyte hend
    · exact h.pixelStep_midByte hx hm hbyte hend

end Packed

end Sys2Proof.Machine
end

section
/-! The raster of a frame (42_quantizer.md R137; 41_frame_control.md R124): every PIX moves one place on, the phase is RUN
until the last place is passed, and the frame is then over. -/

namespace Sys2Proof.Machine

/-- The number of the next pixel in raster order. -/
def rasterIndex (s : State) : Nat := s.y.toNat * s.width.toNat + s.x.toNat

/-- The number of pixels of a frame. -/
def frameSize (s : State) : Nat := s.width.toNat * s.height.toNat

/-- The sequencer between the START of a frame and the next command after it. -/
structure OnRaster (s : State) : Prop where
  geometry : GoodGeometry s
  x_lt : s.x.toNat < s.width.toNat
  running : rasterIndex s < frameSize s → s.ph = .run
  ended : rasterIndex s = frameSize s → s.ph = .idle ∧ s.done = true

section OnRaster
variable {s : State}

theorem y_lt_of_rasterIndex_lt (h : rasterIndex s < frameSize s) : s.y.toNat < s.height.toNat := by
  unfold rasterIndex frameSize at h
  rw [Nat.mul_comm s.width.toNat] at h
  exact Nat.lt_of_mul_lt_mul_right (Nat.lt_of_le_of_lt (Nat.le_add_right _ s.x.toNat) h)

/-- Past the last pixel X is 0 and Y is HEIGHT (10_state.md R35 (v)). -/
theorem OnRaster.place_ended (h : OnRaster s) (he : rasterIndex s = frameSize s) : s.x = 0#12 ∧ s.y = s.height := by
  have hx := h.x_lt
  unfold rasterIndex frameSize at he
  have hx0 : s.x.toNat = 0 := by
    have := congrArg (· % s.width.toNat) he
    simpa [Nat.mod_eq_of_lt hx] using this
  have hy : s.y.toNat = s.height.toNat := by
    rw [hx0, Nat.add_zero, Nat.mul_comm] at he
    exact Nat.eq_of_mul_eq_mul_left (by omega) he
  exact ⟨BitVec.eq_of_toNat_eq hx0, BitVec.eq_of_toNat_eq hy⟩

theorem GoodGeometry.frameSize_pos (h : GoodGeometry s) : 0 < frameSize s := Nat.mul_pos h.width_pos h.height_pos

@[simp] theorem pixelStep_frameSize (p : Byte) (s : State) : frameSize (pixelStep p s) = frameSize s := by
  simp [frameSize]

/-- The next place and whether it is one: X and Y of one step, in raster order. -/
theorem pixelStep_rasterIndex (p : Byte) (hx : s.x.toNat < s.width.toNat) (hy : s.y.toNat < s.height.toNat) :
    (pixelStep p s).x.toNat < s.width.toNat ∧ rasterIndex (pixelStep p s) = rasterIndex s + 1 := by
  rw [rasterIndex, rasterIndex, pixelStep_width, pixelStep_x, pixelStep_y]
  by_cases hend : s.x.toNat + 1 = s.width.toNat
  · have hlast : lastOfRow s = true := lastOfRow_iff.mpr hend
    rw [if_pos hlast, if_pos hlast, toNat_add_one_of_lt hy, Nat.succ_mul, BitVec.toNat_zero]
    omega
  · have hlast : ¬lastOfRow s = true := fun hl => hend (lastOfRow_iff.mp hl)
    rw [if_neg hlast, if_neg hlast, toNat_add_one_of_lt hx]
    omega

/-- The last pixel of the last row is the last place of the raster. -/
theorem last_iff_rasterIndex (hx : s.x.toNat < s.width.toNat) :
    (lastOfRow s && lastRow s) = true ↔ rasterIndex s + 1 = frameSize s := by
  rw [Bool.and_eq_true, lastOfRow_iff, lastRow_iff, rasterIndex, frameSize]
  constructor
  · rintro ⟨hend, hbottom⟩
    rw [← hbottom, Nat.mul_succ, Nat.mul_comm s.width.toNat]
    omega
  · intro h
    have hend : s.x.toNat + 1 = s.width.toNat := by
      have hdvd : s.width.toNat ∣ s.x.toNat + 1 := by
        refine (Nat.dvd_add_right (Nat.dvd_mul_left s.width.toNat s.y.toNat)).mp ?_
        rw [← Nat.add_assoc, h]
        exact Nat.dvd_mul_right _ _
      exact Nat.le_antisymm hx (Nat.le_of_dvd (by omega) hdvd)
    rw [Nat.add_assoc, hend, ← Nat.succ_mul, Nat.mul_comm s.width.toNat] at h
    exact ⟨hend, Nat.eq_of_mul_eq_mul_right (by omega) h⟩

theorem onRaster_beginFrame (h : GoodGeometry s) : OnRaster (beginFrame s) ∧ rasterIndex (beginFrame s) = 0 := by
  have h0 : rasterIndex (beginFrame s) = 0 := by simp [rasterIndex]
  have hg : GoodGeometry (beginFrame s) := ⟨h.width_pos, h.width_le, h.height_pos⟩
  refine ⟨⟨hg, h.width_pos, fun _ => rfl, fun he => ?_⟩, h0⟩
  exact absurd (h0.symm.trans he) hg.frameSize_pos.ne

theorem OnRaster.pixelStep (h : OnRaster s) (p : Byte) (hlt : rasterIndex s < frameSize s) :
    OnRaster (pixelStep p s) := by
  obtain ⟨hx', hindex⟩ := pixelStep_rasterIndex p h.x_lt (y_lt_of_rasterIndex_lt hlt)
  have hlast := last_iff_rasterIndex h.x_lt
  refine ⟨⟨?_, ?_, ?_⟩, ?_, ?_, ?_⟩
  · simpa using h.geometry.width_pos
  · simpa using h.geometry.width_le
  · simpa using h.geometry.height_pos
  · simpa using hx'
  · intro hmore
    rw [hindex, pixelStep_frameSize] at hmore
    rw [pixelStep_ph, if_neg (fun hl => hmore.ne (hlast.mp hl)), h.running hlt]
  · intro hend
    rw [hindex, pixelStep_frameSize] at hend
    rw [pixelStep_ph, pixelStep_done, if_pos (hlast.mpr hend), if_pos (hlast.mpr hend)]
    exact ⟨rfl, rfl⟩

end OnRaster

end Sys2Proof.Machine
end

section
/-! The PIX commands of a frame without the host: the state after a list of luminances, and the records it emits. -/

namespace Sys2Proof.Machine

/-- The state after one PIX for each luminance. -/
def afterPixels (pixels : List Byte) (s : State) : State := pixels.foldl (fun u p => pixelStep p u) s

/-- The records those PIX emit. -/
def recordsOf : List Byte → State → List PixelRecord
  | [], _ => []
  | p :: pixels, s => pixelRecord (quantize p s).1 s.bg :: recordsOf pixels (pixelStep p s)

@[simp] theorem afterPixels_nil (s : State) : afterPixels [] s = s := rfl

@[simp] theorem afterPixels_cons (p : Byte) (pixels : List Byte) (s : State) :
    afterPixels (p :: pixels) s = afterPixels pixels (pixelStep p s) := rfl

@[simp] theorem recordsOf_length (pixels : List Byte) (s : State) : (recordsOf pixels s).length = pixels.length := by
  induction pixels generalizing s with
  | nil => rfl
  | cons p pixels ih => simp [recordsOf, ih]

@[simp] theorem afterPixels_width (pixels : List Byte) (s : State) : (afterPixels pixels s).width = s.width := by
  induction pixels generalizing s with
  | nil => rfl
  | cons p pixels ih => simp [ih]

@[simp] theorem afterPixels_height (pixels : List Byte) (s : State) : (afterPixels pixels s).height = s.height := by
  induction pixels generalizing s with
  | nil => rfl
  | cons p pixels ih => simp [ih]

@[simp] theorem afterPixels_frameSize (pixels : List Byte) (s : State) :
    frameSize (afterPixels pixels s) = frameSize s := by simp [frameSize]

theorem afterPixels_pixels (pixels : List Byte) (s : State) :
    (afterPixels pixels s).pixels = s.pixels ++ recordsOf pixels s := by
  induction pixels generalizing s with
  | nil => simp [recordsOf]
  | cons p pixels ih => simp [ih, recordsOf, pixelStep_pixels]

/-- As many PIX as places are left move as many places on. -/
theorem OnRaster.afterPixels {pixels : List Byte} {s : State} (h : OnRaster s)
    (hroom : rasterIndex s + pixels.length ≤ frameSize s) :
    OnRaster (afterPixels pixels s) ∧ rasterIndex (afterPixels pixels s) = rasterIndex s + pixels.length := by
  induction pixels generalizing s with
  | nil => exact ⟨h, rfl⟩
  | cons p pixels ih =>
    rw [List.length_cons] at hroom ⊢
    have hlt : rasterIndex s < frameSize s := by omega
    have hindex := (pixelStep_rasterIndex p h.x_lt (y_lt_of_rasterIndex_lt hlt)).2
    obtain ⟨hafter, hcount⟩ := ih (h.pixelStep p hlt) (by rw [hindex, pixelStep_frameSize]; omega)
    exact ⟨hafter, by rw [afterPixels_cons, hcount, hindex]; omega⟩

/-- The bit of record `i`, false beyond the records. -/
def recordBit (records : List PixelRecord) (i : Nat) : Bool := (records[i]?).elim false PixelRecord.m

/-- The packer follows the picture `bit`, given by raster index, over as many PIX as there are places left, when the
records that these PIX emit are the picture's. -/
theorem Packed.afterPixels {bit : Nat → Bool} {width : Nat} {earlier : List Byte} {pixels : List Byte} {s : State}
    (h : Packed (fun y x => bit (y * width + x)) earlier s) (hwidth : s.width.toNat = width) (hr : OnRaster s)
    (hroom : rasterIndex s + pixels.length ≤ frameSize s)
    (hbits : ∀ i < pixels.length, recordBit (recordsOf pixels s) i = bit (rasterIndex s + i)) :
    Packed (fun y x => bit (y * width + x)) earlier (afterPixels pixels s) := by
  induction pixels generalizing s with
  | nil => exact h
  | cons p pixels ih =>
    rw [List.length_cons] at hroom hbits
    have hlt : rasterIndex s < frameSize s := by omega
    have hy := y_lt_of_rasterIndex_lt hlt
    have hindex := (pixelStep_rasterIndex p hr.x_lt hy).2
    have hbit : (quantize p s).1 = bit (s.y.toNat * width + s.x.toNat) := hwidth ▸ hbits 0 (by omega)
    refine ih (h.pixelStep hr.x_lt hy hbit) (by rw [pixelStep_width, hwidth]) (hr.pixelStep p hlt)
      (by rw [hindex, pixelStep_frameSize]; omega) fun i hi => ?_
    rw [hindex, Nat.add_assoc, Nat.add_comm 1]
    exact hbits (i + 1) (by omega)

/-! ### The quantizer's dispatch, case by case (42_quantizer.md R136) -/

section Quantize
variable (p : Byte) {s : State}

theorem quantize_of_threshold (hm : s.mode = .threshold) : quantize p s = (thresholdBit s.thresh p, s) := by
  simp [quantize, hm]

theorem quantize_of_ordered (hm : s.mode = .ordered) :
    quantize p s = (thresholdBit (ordThreshold s.params.ordMap s.x.toNat s.y.toNat) p, s) := by
  simp [quantize, hm]

theorem quantize_of_floydSteinberg (hm : s.mode = .diffuse) (hd : s.params.diffusion = .floydSteinberg) :
    quantize p s = quantizeFloydSteinberg p s := by
  simp [quantize, hm, hd]

theorem quantize_of_other {k : Nat} (hm : s.mode = .diffuse) (hd : s.params.diffusion = .other k) :
    quantize p s = quantizeOther k p s := by
  simp [quantize, hm, hd]

end Quantize

/-! ### The input plays no part in a PIX -/

/-- The state with other events presented. -/
def withInput (rest : List HostEvent) (s : State) : State := { s with input := rest }

section WithInput
variable (rest : List HostEvent) (s : State)

@[simp] theorem withInput_input : (withInput rest s).input = rest := rfl

@[simp] theorem withInput_withInput (r : List HostEvent) : withInput rest (withInput r s) = withInput rest s := rfl

theorem emitPixel_withInput (r : PixelRecord) : emitPixel r (withInput rest s) = withInput rest (emitPixel r s) := rfl

theorem quantize_withInput (p : Byte) :
    quantize p (withInput rest s) = ((quantize p s).1, withInput rest (quantize p s).2) := by
  cases hm : s.mode with
  | threshold => rw [quantize_of_threshold p hm, quantize_of_threshold p (s := withInput rest s) hm]; rfl
  | ordered => rw [quantize_of_ordered p hm, quantize_of_ordered p (s := withInput rest s) hm]; rfl
  | diffuse =>
    cases hd : s.params.diffusion with
    | floydSteinberg =>
      rw [quantize_of_floydSteinberg p hm hd, quantize_of_floydSteinberg p (s := withInput rest s) hm hd]
      rfl
    | other k =>
      rw [quantize_of_other p hm hd, quantize_of_other p (s := withInput rest s) hm hd]
      rfl

theorem pack_withInput (b : Bool) : pack b (withInput rest s) = withInput rest (pack b s) := by
  have hf : flushes (withInput rest s) = flushes s := rfl
  unfold pack
  rw [hf]
  split <;> rfl

theorem closeRow_withInput : closeRow (withInput rest s) = withInput rest (closeRow s) := by
  have hl : lastOfRow (withInput rest s) = lastOfRow s := rfl
  unfold closeRow
  rw [hl]
  split <;> rfl

theorem advance_withInput : advance (withInput rest s) = withInput rest (advance s) := by
  have hl : lastOfRow (withInput rest s) = lastOfRow s := rfl
  have hr : lastRow (withInput rest s) = lastRow s := rfl
  unfold advance
  rw [hl, hr]
  split
  · split <;> rfl
  · rfl

theorem pixelStep_withInput (p : Byte) : pixelStep p (withInput rest s) = withInput rest (pixelStep p s) := by
  have hbg (u : State) : (withInput rest u).bg = u.bg := rfl
  simp only [pixelStep, quantize_withInput, outputPixel, hbg, emitPixel_withInput, pack_withInput, closeRow_withInput,
    advance_withInput]

end WithInput

end Sys2Proof.Machine
end

section
/-! A frame as the host presents it (70_reset_and_hazards.md R213): the steps on START and on each PIX. -/

namespace Sys2Proof.Machine

theorem decode_encode_start : decode (encode .start) = .command .start := by decide

theorem decode_encode_pix (p : Byte) : decode (encode (.pix p)) = .command (.pix p) := by
  simp only [encode, decode, decodeFormatB, opcodeOf_formatB, zeros11to8_formatB, imm8_formatB]
  rfl

/-- The step on a word that decodes to a command. -/
theorem step_command {s : State} {w : Word} {rest : List HostEvent} {i : Instr} (hi : s.input = .command w :: rest)
    (hd : decode w = .command i) : step s = exec i (withInput rest s) := by
  simp [step, fetch, hi, hd, withInput]

theorem GoodGeometry.geometryBad_eq {s : State} (h : GoodGeometry s) : geometryBad s = false := by
  obtain ⟨hw, hmax, hh⟩ := h
  have hw0 : s.width ≠ 0#12 := fun h0 => by simp [h0] at hw
  have hh0 : s.height ≠ 0#12 := fun h0 => by simp [h0] at hh
  simp [geometryBad, hw0, hh0, hmax]

theorem exec_start_ready {s : State} (hp : s.ph = .idle) (hg : GoodGeometry s) :
    exec .start s = .next (beginFrame s) := by
  change execStart s = _
  rw [execStart, inIdle_idle hp, hg.geometryBad_eq]
  rfl

/-- 20_memory.md R52: a pixel inside a row of a usable width stays inside the line buffer, in every mode. -/
theorem bufferReached_of_x_lt {s : State} (hx : s.x.toNat < s.width.toNat) (hg : GoodGeometry s) :
    bufferReached s = true := by
  have hmax := hg.width_le
  cases hm : s.mode with
  | threshold => simp [bufferReached, hm]
  | ordered => simp [bufferReached, hm]
  | diffuse =>
    simp only [bufferReached, hm, decide_eq_true_eq]
    omega

theorem exec_pix_run {s : State} (p : Byte) (hp : s.ph = .run) (hb : bufferReached s = true) :
    exec (.pix p) s = .next (pixelStep p s) := by
  change execPix p s = _
  rw [execPix, inRun_run hp, if_pos hb]

theorem step_pix_run {s : State} (p : Byte) (rest : List HostEvent) (hp : s.ph = .run) (hb : bufferReached s = true) :
    step (withInput (.command (encode (.pix p)) :: rest) s) = .next (withInput rest (pixelStep p s)) := by
  rw [step_command (withInput_input _ s) (decode_encode_pix p), withInput_withInput,
    exec_pix_run p (s := withInput rest s) hp hb, pixelStep_withInput]

@[simp] theorem commandsOf_cons (i : Instr) (is : List Instr) :
    commandsOf (i :: is) = .command (encode i) :: commandsOf is := rfl

/-- The steps on the PIX commands of a frame: each completes, and the host's next event is then due. -/
theorem runSteps_pixels {pixels : List Byte} {s : State} (rest : List HostEvent) (h : OnRaster s)
    (hroom : rasterIndex s + pixels.length ≤ frameSize s) :
    runSteps pixels.length (withInput (commandsOf (pixels.map .pix) ++ rest) s) =
      .next (withInput rest (afterPixels pixels s)) := by
  induction pixels generalizing s with
  | nil => rfl
  | cons p pixels ih =>
    rw [List.length_cons] at hroom
    have hlt : rasterIndex s < frameSize s := by omega
    have hindex := (pixelStep_rasterIndex p h.x_lt (y_lt_of_rasterIndex_lt hlt)).2
    have hstep := step_pix_run p (commandsOf (pixels.map .pix) ++ rest) (h.running hlt)
      (bufferReached_of_x_lt h.x_lt h.geometry)
    rw [List.map_cons, commandsOf_cons, List.cons_append, List.length_cons, runSteps_succ, hstep, afterStep_next,
      afterPixels_cons]
    exact ih (h.pixelStep p hlt) (by rw [hindex, pixelStep_frameSize]; omega)

section Frame
variable {s : State} {pixels : List Byte} {rest : List HostEvent}

/-- The state after the commands of a frame. -/
def afterFrame (pixels : List Byte) (rest : List HostEvent) (s : State) : State :=
  withInput rest (afterPixels pixels (beginFrame s))

/-- The records of a frame. -/
def frameRecords (pixels : List Byte) (s : State) : List PixelRecord := recordsOf pixels (beginFrame s)

theorem FrameReady.room (h : FrameReady s pixels rest) :
    rasterIndex (beginFrame s) + pixels.length = frameSize (beginFrame s) := by
  rw [(onRaster_beginFrame h.geometry).2, Nat.zero_add, h.count]
  rfl

/-- Every frame completes, in every mode and under every diffusion. -/
theorem runSteps_frame (h : FrameReady s pixels rest) :
    runSteps (1 + pixels.length) s = .next (afterFrame pixels rest s) := by
  have hstart : step s = .next (withInput (commandsOf (pixels.map .pix) ++ rest) (beginFrame s)) := by
    rw [step_command h.input decode_encode_start]
    exact exec_start_ready h.idle ⟨h.geometry.width_pos, h.geometry.width_le, h.geometry.height_pos⟩
  rw [Nat.add_comm, runSteps_succ, hstart, afterStep_next]
  exact runSteps_pixels rest (onRaster_beginFrame h.geometry).1 h.room.le

theorem afterFrame_onRaster (h : FrameReady s pixels rest) :
    OnRaster (afterPixels pixels (beginFrame s)) ∧
      rasterIndex (afterPixels pixels (beginFrame s)) = frameSize (afterPixels pixels (beginFrame s)) := by
  obtain ⟨hr, hi⟩ := (onRaster_beginFrame h.geometry).1.afterPixels h.room.le
  exact ⟨hr, by rw [hi, h.room, afterPixels_frameSize]⟩

/-- 41_frame_control.md R124: IDLE and DONE, X = 0 and Y = HEIGHT. -/
theorem afterFrame_sequencer (h : FrameReady s pixels rest) :
    (afterFrame pixels rest s).ph = .idle ∧ (afterFrame pixels rest s).done = true ∧
      (afterFrame pixels rest s).x = 0#12 ∧ (afterFrame pixels rest s).y = s.height := by
  obtain ⟨hr, he⟩ := afterFrame_onRaster h
  obtain ⟨hph, hdone⟩ := hr.ended he
  obtain ⟨hx, hy⟩ := hr.place_ended he
  exact ⟨hph, hdone, hx, hy.trans (afterPixels_height pixels (beginFrame s))⟩

theorem afterFrame_pixels (pixels : List Byte) (rest : List HostEvent) (s : State) :
    (afterFrame pixels rest s).pixels = s.pixels ++ frameRecords pixels s := afterPixels_pixels pixels (beginFrame s)

/-- 20_memory.md R55 to R58: the bytes of a frame are the payload of its records' bits. -/
theorem afterFrame_bytes (h : FrameReady s pixels rest) :
    (afterFrame pixels rest s).bytes = s.bytes ++ payloadOf s.width.toNat s.height.toNat
      (fun y x => recordBit (frameRecords pixels s) (y * s.width.toNat + x)) := by
  obtain ⟨hr, hindex⟩ := onRaster_beginFrame h.geometry
  have hpacked := (packed_beginFrame _ s).afterPixels (bit := recordBit (frameRecords pixels s)) (width := s.width.toNat)
    rfl hr h.room.le fun i _ => by rw [hindex, Nat.zero_add]; rfl
  obtain ⟨hended, hcount⟩ := afterFrame_onRaster h
  obtain ⟨hx, hy⟩ := hended.place_ended hcount
  have hbytes := hpacked.bytes
  rw [hx, hy, afterPixels_width, afterPixels_height] at hbytes
  exact hbytes.trans (congrArg _ (payloadBefore_rowStart _ _ _))

end Frame

/-- Settles O44: the START step and an induction over the pixels give the state after the frame; the packer's registers
follow the picture of the frame's own records all along. -/
theorem frameEmitsItsPayload : Obligations.FrameEmitsItsPayload := by
  intro s pixels rest h
  obtain ⟨hph, hdone, hx, hy⟩ := afterFrame_sequencer h
  have hbytes := afterFrame_bytes h
  refine ⟨afterFrame pixels rest s, frameRecords pixels s, runSteps_frame h, recordsOf_length _ _,
    afterFrame_pixels pixels rest s, hbytes, ?length, hph, hdone, hx, hy, rfl⟩
  case length => rw [hbytes, List.length_append, payloadOf_length]

/-- Settles O45: the bytes since the START are the payload of the records' bits, and unpacking inverts packing. -/
theorem payloadGivesBackThePicture : Obligations.PayloadGivesBackThePicture := by
  intro s t pixels rest h ht x y hx hy
  obtain rfl : afterFrame pixels rest s = t := Host.Outcome.next.inj ((runSteps_frame h).symm.trans ht)
  have hinside : y * s.width.toNat + x < (frameRecords pixels s).length := by
    rw [frameRecords, recordsOf_length, h.count]
    calc y * s.width.toNat + x < (y + 1) * s.width.toNat := by rw [Nat.succ_mul]; omega
      _ ≤ s.height.toNat * s.width.toNat := Nat.mul_le_mul_right _ hy
      _ = s.width.toNat * s.height.toNat := Nat.mul_comm _ _
  refine ⟨(frameRecords pixels s)[y * s.width.toNat + x], ?record, ?bit⟩
  case record =>
    rw [afterFrame_pixels, List.getElem?_append_right (by omega), Nat.add_sub_cancel_left]
    exact List.getElem?_eq_getElem hinside
  case bit =>
    rw [afterFrame_bytes h, List.drop_left, unpackBit_payloadOf _ hx hy, recordBit, List.getElem?_eq_getElem hinside]
    rfl

end Sys2Proof.Machine
end

section
/-! The decoder as equivalences over the fields of a word (30_encoding.md R80, R81, R85): which fields each command
carries, and which fields make a word ILLEGAL. -/

namespace Sys2Proof

/-! ### The three checked formats (30_encoding.md R80) -/

section Formats
variable {w : Word} {i : Instr}

theorem decodeFormatB_eq_command_iff {make : BitVec 8 → Instr} :
    decodeFormatB w make = .command i ↔ zeros11to8 w = 0#4 ∧ make (imm8 w) = i := by
  unfold decodeFormatB
  split <;> simp [*]

theorem decodeFormatM_eq_command_iff :
    decodeFormatM w = .command i ↔
      zeros11to3 w = 0#9 ∧ modeField w ≠ 3#2 ∧ .setm (modeField w) (bgField w) = i := by
  unfold decodeFormatM
  split <;> [split; skip] <;> simp [*]

theorem decodeFormatZ_eq_command_iff {j : Instr} : decodeFormatZ w j = .command i ↔ imm12 w = 0#12 ∧ j = i := by
  unfold decodeFormatZ
  split <;> simp [*]

theorem decodeFormatB_illegal_iff {make : BitVec 8 → Instr} :
    (∃ why, decodeFormatB w make = .illegal why) ↔ zeros11to8 w ≠ 0#4 := by
  unfold decodeFormatB
  split <;> simp [*]

theorem decodeFormatM_illegal_iff :
    (∃ why, decodeFormatM w = .illegal why) ↔ zeros11to3 w ≠ 0#9 ∨ modeField w = 3#2 := by
  unfold decodeFormatM
  split <;> [split; skip] <;> simp [*]

theorem decodeFormatZ_illegal_iff {j : Instr} : (∃ why, decodeFormatZ w j = .illegal why) ↔ imm12 w ≠ 0#12 := by
  unfold decodeFormatZ
  split <;> simp [*]

end Formats

/-! ### The decoder (30_encoding.md R81, R82, R85) -/

/-- The word's fields are those of the command: its opcode, its zero bits and its operands (30_encoding.md R80, R84). -/
def Instr.CarriedBy (w : Word) : Instr → Prop
  | .setw v => opcodeOf w = 0x1#4 ∧ imm12 w = v
  | .seth v => opcodeOf w = 0x2#4 ∧ imm12 w = v
  | .sett v => opcodeOf w = 0x3#4 ∧ zeros11to8 w = 0#4 ∧ imm8 w = v
  | .setm mode bg =>
    opcodeOf w = 0x4#4 ∧ zeros11to3 w = 0#9 ∧ modeField w ≠ 3#2 ∧ modeField w = mode ∧ bgField w = bg
  | .start => opcodeOf w = 0x5#4 ∧ imm12 w = 0#12
  | .pix v => opcodeOf w = 0x6#4 ∧ zeros11to8 w = 0#4 ∧ imm8 w = v
  | .rst => opcodeOf w = 0xF#4 ∧ imm12 w = 0#12

theorem decode_eq_command_iff {w : Word} {i : Instr} : decode w = .command i ↔ i.CarriedBy w := by
  unfold decode
  split_ifs with h1 h2 h3 h4 h5 h6 hF
  · cases i <;> simp [Instr.CarriedBy, h1]
  · cases i <;> simp [Instr.CarriedBy, h2]
  · cases i <;> simp [Instr.CarriedBy, h3, decodeFormatB_eq_command_iff]
  · cases i <;> simp [Instr.CarriedBy, h4, decodeFormatM_eq_command_iff]
  · cases i <;> simp [Instr.CarriedBy, h5, decodeFormatZ_eq_command_iff]
  · cases i <;> simp [Instr.CarriedBy, h6, decodeFormatB_eq_command_iff]
  · cases i <;> simp [Instr.CarriedBy, hF, decodeFormatZ_eq_command_iff]
  · cases i <;> simp [Instr.CarriedBy, *]

/-- 30_encoding.md R85, by fields. -/
theorem decode_illegal_iff {w : Word} :
    (∃ why, decode w = .illegal why) ↔
      opcodeOf w ∉ [0x1#4, 0x2#4, 0x3#4, 0x4#4, 0x5#4, 0x6#4, 0xF#4] ∨
      ((opcodeOf w = 0x3#4 ∨ opcodeOf w = 0x6#4) ∧ zeros11to8 w ≠ 0#4) ∨
      (opcodeOf w = 0x4#4 ∧ (zeros11to3 w ≠ 0#9 ∨ modeField w = 3#2)) ∨
      ((opcodeOf w = 0x5#4 ∨ opcodeOf w = 0xF#4) ∧ imm12 w ≠ 0#12) := by
  unfold decode
  split_ifs with h1 h2 h3 h4 h5 h6 hF
  · simp [h1]
  · simp [h2]
  · simp [h3, decodeFormatB_illegal_iff]
  · simp [h4, decodeFormatM_illegal_iff]
  · simp [h5, decodeFormatZ_illegal_iff]
  · simp [h6, decodeFormatB_illegal_iff]
  · simp [hF, decodeFormatZ_illegal_iff]
  · simp [*]

end Sys2Proof
end

section
/-! The opcode map (30_encoding.md R81): what each mask and match says of the fields of a word. -/

namespace Sys2Proof

theorem append_eq_append_iff {n k : Nat} {a c : BitVec n} {b d : BitVec k} : a ++ b = c ++ d ↔ a = c ∧ b = d := by
  constructor
  · intro h
    have high := congrArg (BitVec.extractLsb' k n) h
    have low := congrArg (BitVec.extractLsb' 0 k) h
    simp only [BitVec.extractLsb'_append_eq_left, BitVec.extractLsb'_append_eq_right] at high low
    exact ⟨high, low⟩
  · rintro ⟨rfl, rfl⟩
    rfl

section Masks
variable {w : Word}

theorem and_maskD_eq_iff (op : BitVec 4) : w &&& 0xF000#16 = op ++ 0#12 ↔ opcodeOf w = op := by
  have masked : w &&& 0xF000#16 = opcodeOf w ++ 0#12 := by
    conv_lhs => rw [← word_eq_opcode_imm12 w]
    exact Laws.fixed_part (opcodeOf w) (imm12 w)
  rw [masked, BitVec.append_left_inj]

theorem and_maskB_eq_iff (op : BitVec 4) :
    w &&& 0xFF00#16 = op ++ 0#4 ++ 0#8 ↔ opcodeOf w = op ∧ zeros11to8 w = 0#4 := by
  have masked : w &&& 0xFF00#16 = opcodeOf w ++ zeros11to8 w ++ 0#8 := by
    conv_lhs => rw [← word_eq_formatB w]
    exact Laws.fixed_part (opcodeOf w ++ zeros11to8 w) (imm8 w)
  rw [masked, BitVec.append_left_inj, append_eq_append_iff]

theorem and_maskM_eq_iff (op : BitVec 4) :
    w &&& 0xFFF8#16 = op ++ 0#9 ++ 0#3 ↔ opcodeOf w = op ∧ zeros11to3 w = 0#9 := by
  have parts : opcodeOf w ++ zeros11to3 w ++ w.extractLsb' 0 3 = w := by
    unfold opcodeOf zeros11to3
    rw [BitVec.extractLsb'_append_extractLsb'_eq_extractLsb' (by rfl),
      BitVec.extractLsb'_append_extractLsb'_eq_extractLsb' (by rfl)]
    simp
  have masked : w &&& 0xFFF8#16 = opcodeOf w ++ zeros11to3 w ++ 0#3 := by
    conv_lhs => rw [← parts]
    exact Laws.fixed_part (opcodeOf w ++ zeros11to3 w) (w.extractLsb' 0 3)
  rw [masked, BitVec.append_left_inj, append_eq_append_iff]

theorem and_maskZ_eq_iff (op : BitVec 4) :
    w &&& 0xFFFF#16 = op ++ 0#12 ↔ opcodeOf w = op ∧ imm12 w = 0#12 := by
  have masked : w &&& 0xFFFF#16 = opcodeOf w ++ imm12 w := by
    rw [word_eq_opcode_imm12]
    exact BitVec.and_allOnes
  rw [masked, append_eq_append_iff]

/-- The extra condition of SETM's row speaks of the `mode` field. -/
theorem and_modeBits_eq_iff : w &&& 3#16 = 3#16 ↔ modeField w = 3#2 := by
  have masked : w &&& 3#16 = 0#14 ++ modeField w := by
    have parts : w.extractLsb' 2 14 ++ modeField w = w := by
      unfold modeField
      rw [BitVec.extractLsb'_append_extractLsb'_eq_extractLsb' (by rfl)]
      simp
    conv_lhs => rw [← parts]
    change (w.extractLsb' 2 14 ++ modeField w) &&& (0#14 ++ BitVec.allOnes 2) = _
    rw [BitVec.and_append, BitVec.and_zero, BitVec.and_allOnes]
  rw [masked]
  exact BitVec.append_right_inj (s := 0#14) (t₂ := 3#2)

end Masks

/-- What the rows of 30_encoding.md R81 say of a word's fields: the row's opcode, its zero bits and its extra
condition. -/
def RowFields (name : String) (w : Word) : Prop :=
  (name = "SETW" ∧ opcodeOf w = 0x1#4) ∨
  (name = "SETH" ∧ opcodeOf w = 0x2#4) ∨
  (name = "SETT" ∧ opcodeOf w = 0x3#4 ∧ zeros11to8 w = 0#4) ∨
  (name = "SETM" ∧ opcodeOf w = 0x4#4 ∧ zeros11to3 w = 0#9 ∧ modeField w ≠ 3#2) ∨
  (name = "START" ∧ opcodeOf w = 0x5#4 ∧ imm12 w = 0#12) ∨
  (name = "PIX" ∧ opcodeOf w = 0x6#4 ∧ zeros11to8 w = 0#4) ∨
  (name = "RST" ∧ opcodeOf w = 0xF#4 ∧ imm12 w = 0#12)

theorem rowFields_iff_row {name : String} {w : Word} :
    RowFields name w ↔ ∃ r ∈ opcodeRows, r.mnemonic = name ∧ r.holds w = true := by
  have setw : w &&& 0xF000#16 = 0x1000#16 ↔ _ := and_maskD_eq_iff 0x1#4
  have seth : w &&& 0xF000#16 = 0x2000#16 ↔ _ := and_maskD_eq_iff 0x2#4
  have sett : w &&& 0xFF00#16 = 0x3000#16 ↔ _ := and_maskB_eq_iff 0x3#4
  have setm : w &&& 0xFFF8#16 = 0x4000#16 ↔ _ := and_maskM_eq_iff 0x4#4
  have start : w &&& 0xFFFF#16 = 0x5000#16 ↔ _ := and_maskZ_eq_iff 0x5#4
  have pix : w &&& 0xFF00#16 = 0x6000#16 ↔ _ := and_maskB_eq_iff 0x6#4
  have rst : w &&& 0xFFFF#16 = 0xF000#16 ↔ _ := and_maskZ_eq_iff 0xF#4
  simp [RowFields, opcodeRows, OpcodeRow.holds, setw, seth, sett, setm, start, pix, rst, and_modeBits_eq_iff,
    eq_comm (b := name), and_assoc]

theorem rowFields_iff_decode {name : String} {w : Word} :
    RowFields name w ↔ ∃ i, decode w = .command i ∧ mnemonicOf i = name := by
  simp only [decode_eq_command_iff]
  constructor
  · rintro (⟨rfl, hop⟩ | ⟨rfl, hop⟩ | ⟨rfl, hop, hz⟩ | ⟨rfl, hop, hz, hm⟩ | ⟨rfl, hop, hz⟩ | ⟨rfl, hop, hz⟩ |
      ⟨rfl, hop, hz⟩)
    · exact ⟨.setw _, ⟨hop, rfl⟩, rfl⟩
    · exact ⟨.seth _, ⟨hop, rfl⟩, rfl⟩
    · exact ⟨.sett _, ⟨hop, hz, rfl⟩, rfl⟩
    · exact ⟨.setm _ _, ⟨hop, hz, hm, rfl, rfl⟩, rfl⟩
    · exact ⟨.start, ⟨hop, hz⟩, rfl⟩
    · exact ⟨.pix _, ⟨hop, hz, rfl⟩, rfl⟩
    · exact ⟨.rst, ⟨hop, hz⟩, rfl⟩
  · rintro ⟨i, hi, rfl⟩
    cases i with
    | setw | seth => simp [RowFields, mnemonicOf, hi.1]
    | sett | pix =>
      obtain ⟨hop, hz, -⟩ := hi
      simp [RowFields, mnemonicOf, hop, hz]
    | setm =>
      obtain ⟨hop, hz, hm, -⟩ := hi
      simp [RowFields, mnemonicOf, hop, hz, hm]
    | start | rst =>
      obtain ⟨hop, hz⟩ := hi
      simp [RowFields, mnemonicOf, hop, hz]

theorem decode_mnemonic_iff_row {w : Word} {name : String} :
    (∃ i, decode w = .command i ∧ mnemonicOf i = name) ↔ ∃ r ∈ opcodeRows, r.mnemonic = name ∧ r.holds w = true :=
  rowFields_iff_decode.symm.trans rowFields_iff_row

/-- No two rows share a mnemonic. -/
theorem opcodeRows_mnemonic_injective :
    ∀ r ∈ opcodeRows, ∀ r' ∈ opcodeRows, r.mnemonic = r'.mnemonic → r = r' := by decide

/-- Settles O3: the fields of a word say both which row it matches and which command it decodes to; a word of two rows
would decode to two mnemonics, and a command's word has a row. -/
theorem decodeFollowsOpcodeMap : Obligations.DecodeFollowsOpcodeMap := by
  refine ⟨fun _ _ => decode_mnemonic_iff_row, ?disjoint, ?illegal⟩
  case disjoint =>
    intro w r hr r' hr' hw hw'
    obtain ⟨i, hi, hname⟩ := decode_mnemonic_iff_row.mpr ⟨r, hr, rfl, hw⟩
    obtain ⟨j, hj, hname'⟩ := decode_mnemonic_iff_row.mpr ⟨r', hr', rfl, hw'⟩
    obtain rfl : i = j := Decoded.command.inj (hi.symm.trans hj)
    exact opcodeRows_mnemonic_injective r hr r' hr' (hname.symm.trans hname')
  case illegal =>
    intro w hnone
    cases hd : decode w with
    | illegal why => exact ⟨why, rfl⟩
    | command i =>
      obtain ⟨r, hr, -, hw⟩ := decode_mnemonic_iff_row.mp ⟨i, hd, rfl⟩
      exact absurd hw (by simp [hnone r hr])

end Sys2Proof
end

section
/-! ILLEGAL words (30_encoding.md R85): the fields as parts of the word's number, and the step on an ILLEGAL word. -/

namespace Sys2Proof

/-! ### The fields as numbers (30_encoding.md R80, R84) -/

theorem opcodeOf_toNat (w : Word) : (opcodeOf w).toNat = w.toNat / 4096 := by
  rw [opcodeOf, BitVec.extractLsb'_toNat, Nat.shiftRight_eq_div_pow]
  omega

theorem imm12_toNat (w : Word) : (imm12 w).toNat = w.toNat % 4096 := BitVec.extractLsb'_toNat 0 12 w

theorem zeros11to8_toNat (w : Word) : (zeros11to8 w).toNat = w.toNat % 4096 / 256 := by
  rw [zeros11to8, BitVec.extractLsb'_toNat, Nat.shiftRight_eq_div_pow]
  omega

theorem zeros11to3_toNat (w : Word) : (zeros11to3 w).toNat = w.toNat % 4096 / 8 := by
  rw [zeros11to3, BitVec.extractLsb'_toNat, Nat.shiftRight_eq_div_pow]
  omega

theorem modeField_toNat (w : Word) : (modeField w).toNat = w.toNat % 4 := BitVec.extractLsb'_toNat 0 2 w

namespace Machine

/-- 60_exceptions.md R193: the step takes an ILLEGAL word from the input before it looks at the phase. -/
theorem step_illegal {s : State} {w : Word} {rest : List HostEvent} {why : Illegal}
    (hi : s.input = .command w :: rest) (hd : decode w = .illegal why) :
    step s = .next (illegalCommand (withInput rest s)) := by
  simp [step, fetch, hi, hd, withInput]

/-- Settles O4: the classes of ILLEGAL words by fields, each field read as a part of the word's number; the step on such
a word is IllegalCommand in the phases that take commands. -/
theorem illegalWordsRaiseIllegalCommand : Obligations.IllegalWordsRaiseIllegalCommand := by
  intro w
  refine ⟨?words, fun s rest why hi hd => ⟨fun herr => ?ignored, fun hlive => ?raised⟩⟩
  case words =>
    rw [decode_illegal_iff]
    simp only [List.mem_cons, List.not_mem_nil, or_false, ne_eq, ← BitVec.toNat_inj, opcodeOf_toNat, imm12_toNat,
      zeros11to8_toNat, zeros11to3_toNat, modeField_toNat, BitVec.reduceToNat]
    omega
  case ignored => rw [step_illegal hi hd, illegalCommand_err (s := withInput rest s) herr, withInput]
  case raised => rw [step_illegal hi hd, illegalCommand_live (s := withInput rest s) hlive, raise, withInput]

end Machine
end Sys2Proof
end

section
/-! Emissions (30_encoding.md R83): what each command adds to the byte stream and to the pixel stream. -/

namespace Sys2Proof.Machine

theorem flushes_iff {s : State} : flushes s = true ↔ s.bc = 7#3 ∨ s.x.toNat + 1 = s.width.toNat := by
  simp [flushes, lastOfRow_iff]

theorem nothingEmitted_refl (s : State) : nothingEmitted s s := ⟨rfl, rfl⟩

theorem nothingEmitted_raise (e : Cause) (s : State) : nothingEmitted s (raise e s) := ⟨rfl, rfl⟩

section Emissions
variable {i : Instr} {s t : State}

/-- Everything a command can emit: START in IDLE and PIX in RUN are the only ones that emit. -/
theorem exec_emissions (h : exec i s = .next t) :
    nothingEmitted s t ∨ (i = .start ∧ s.ph = .idle) ∨ ((∃ p, i = .pix p) ∧ s.ph = .run) := by
  rcases exec_next h with ⟨-, rfl⟩ | ⟨-, -, rfl⟩ | ⟨-, -, e, rfl⟩ | ⟨hp, hidle⟩ | ⟨hp, -, p, hi, -⟩
  · exact .inl ⟨resetAll_bytes s, resetAll_pixels s⟩
  · exact .inl (nothingEmitted_refl t)
  · exact .inl (nothingEmitted_raise e s)
  · rcases hidle with ⟨_, -, rfl⟩ | ⟨_, -, rfl⟩ | ⟨_, -, rfl⟩ | ⟨_, _, _, -, -, rfl⟩ | ⟨hi, -, -⟩
    · exact .inl ⟨rfl, rfl⟩
    · exact .inl ⟨rfl, rfl⟩
    · exact .inl ⟨rfl, rfl⟩
    · exact .inl ⟨rfl, rfl⟩
    · exact .inr (.inl ⟨hi, hp⟩)
  · exact .inr (.inr ⟨⟨p, hi⟩, hp⟩)

/-- 41_frame_control.md R121, R123: the header when the frame begins, nothing otherwise. -/
theorem start_emissions (h : exec .start s = .next t) :
    (t.ph = .run ∧ s.ph = .idle → t.bytes = s.bytes ++ [0x00#8] ∧ t.pixels = s.pixels) ∧
      (t.ph ≠ .run → nothingEmitted s t) := by
  rcases execStart_next h with ⟨herr, rfl⟩ | ⟨-, rfl⟩ | ⟨-, -, rfl⟩ | ⟨-, -, rfl⟩
  · exact ⟨fun ⟨_, hidle⟩ => by simp [herr] at hidle, fun _ => nothingEmitted_refl t⟩
  · exact ⟨fun ⟨hrun, _⟩ => by simp at hrun, fun _ => nothingEmitted_raise _ s⟩
  · exact ⟨fun ⟨hrun, _⟩ => by simp at hrun, fun _ => nothingEmitted_raise _ s⟩
  · exact ⟨fun _ => ⟨rfl, rfl⟩, fun hrun => absurd rfl hrun⟩

theorem pixelStep_emissions (p : Byte) (s : State) :
    (∃ r, (pixelStep p s).pixels = s.pixels ++ [r]) ∧
      (if s.bc = 7#3 ∨ s.x.toNat + 1 = s.width.toNat then ∃ b, (pixelStep p s).bytes = s.bytes ++ [b]
        else (pixelStep p s).bytes = s.bytes) := by
  refine ⟨⟨_, pixelStep_pixels p s⟩, ?_⟩
  rw [pixelStep_bytes]
  split <;> rename_i hend <;> simp [flushes_iff, hend]

/-- 44_preview_and_packer.md R160, R167: a record, and a byte at the end of a byte or of a row, in RUN only. -/
theorem pix_emissions {p : Byte} (h : exec (.pix p) s = .next t) :
    (s.ph = .run → (∃ r, t.pixels = s.pixels ++ [r]) ∧
        (if s.bc = 7#3 ∨ s.x.toNat + 1 = s.width.toNat then ∃ b, t.bytes = s.bytes ++ [b] else t.bytes = s.bytes)) ∧
      (s.ph ≠ .run → nothingEmitted s t) := by
  rcases execPix_next h with ⟨herr, rfl⟩ | ⟨hidle, rfl⟩ | ⟨hrun, -, rfl⟩
  · exact ⟨fun hrun => by simp [herr] at hrun, fun _ => nothingEmitted_refl t⟩
  · exact ⟨fun hrun => by simp [hidle] at hrun, fun _ => nothingEmitted_raise _ s⟩
  · exact ⟨fun _ => pixelStep_emissions p s, fun hout => absurd hrun hout⟩

end Emissions

/-- Settles O37: START and PIX are the only commands that emit, each in one phase; what they emit is their own lemma. -/
theorem emissionsByCommand : Obligations.EmissionsByCommand := by
  intro i s t h
  refine ⟨fun hi => ?silent, fun herr => ?ignored, ?start, ?pix⟩
  case silent =>
    rcases exec_emissions h with hn | ⟨rfl, -⟩ | ⟨⟨p, rfl⟩, -⟩
    · exact hn
    · simp [isConfiguration] at hi
    · simp [isConfiguration] at hi
  case ignored =>
    rcases exec_emissions h with hn | ⟨-, hidle⟩ | ⟨-, hrun⟩
    · exact hn
    · simp [herr] at hidle
    · simp [herr] at hrun
  case start =>
    rintro rfl
    exact start_emissions h
  case pix =>
    rintro p rfl
    exact pix_emissions h

end Sys2Proof.Machine
end

section
/-! The pseudo-instructions (30_encoding.md R87): each line whose operands are the unsigned values of its fields is the
list of its commands' words. -/

namespace Sys2Proof.Machine

/-! ### The single commands, their operands in range (30_encoding.md R86) -/

/-- A command of one operand, written as the unsigned value of its field. -/
theorem wordIf_operand_toNat {n bound : Nat} (make : BitVec n → Instr) {v : BitVec n} (h : v.toNat ≤ bound) :
    wordIf (decide (v.toNat ≤ bound)) (make (BitVec.ofNat n v.toNat)) = some [encode (make v)] := by
  rw [BitVec.ofNat_toNat, BitVec.setWidth_eq, decide_eq_true h, wordIf_true]

theorem asmSetw_toNat (w : BitVec 12) : asmSetw w.toNat = some [encode (.setw w)] :=
  wordIf_operand_toNat .setw (by omega)

theorem asmSeth_toNat (h : BitVec 12) : asmSeth h.toNat = some [encode (.seth h)] :=
  wordIf_operand_toNat .seth (by omega)

theorem asmSett_toNat (t : BitVec 8) : asmSett t.toNat = some [encode (.sett t)] :=
  wordIf_operand_toNat .sett (by omega)

theorem asmPix_toNat (p : BitVec 8) : asmPix p.toNat = some [encode (.pix p)] :=
  wordIf_operand_toNat .pix (by omega)

theorem asmSetm_toNat {mode : BitVec 2} (bg : Bool) (hm : mode ≠ 3#2) :
    asmSetm mode.toNat bg.toNat = some [encode (.setm mode bg)] := by
  have hmode : mode.toNat ≤ 2 := by bv_omega
  have hbg : (bg.toNat == 1) = bg := by cases bg <;> rfl
  rw [asmSetm, BitVec.ofNat_toNat, BitVec.setWidth_eq, hbg, decide_eq_true hmode, decide_eq_true (Bool.toNat_le bg),
    Bool.and_self, wordIf_true]

/-! ### The pseudo-instructions (30_encoding.md R87) -/

theorem joinWords_asmPix (ps : List (BitVec 8)) :
    joinWords ((ps.map BitVec.toNat).map asmPix) = some (ps.map fun p => encode (.pix p)) := by
  induction ps with
  | nil => rfl
  | cons p ps ih => rw [List.map_cons, List.map_cons, asmPix_toNat, joinWords_some_cons, ih]; rfl

theorem asmConfig_toNat (w h : BitVec 12) (t : BitVec 8) {mode : BitVec 2} (bg : Bool) (hm : mode ≠ 3#2) :
    asmConfig w.toNat h.toNat t.toNat mode.toNat bg.toNat =
      some [encode (.setw w), encode (.seth h), encode (.sett t), encode (.setm mode bg)] := by
  rw [asmConfig, asmSetw_toNat, asmSeth_toNat, asmSett_toNat, asmSetm_toNat bg hm]
  rfl

theorem asmRow_toNat {ps : List (BitVec 8)} (hne : ps ≠ []) :
    asmRow (ps.map BitVec.toNat) = some (ps.map fun p => encode (.pix p)) := by
  rw [asmRow, if_neg (by simpa using hne), joinWords_asmPix]

theorem asmFill_toNat (n : Nat) (p : BitVec 8) : asmFill n p.toNat = some (List.replicate n (encode (.pix p))) := by
  rw [asmFill, asmPix_toNat, Option.map_some, List.flatten_replicate_singleton]

theorem asmFrame_toNat {w h : BitVec 12} (t : BitVec 8) {mode : BitVec 2} (bg : Bool) {ps : List (BitVec 8)}
    (hm : mode ≠ 3#2) (hcount : ps.length = w.toNat * h.toNat) :
    asmFrame w.toNat h.toNat t.toNat mode.toNat bg.toNat (ps.map BitVec.toNat) =
      some ([encode (.setw w), encode (.seth h), encode (.sett t), encode (.setm mode bg), encode .start] ++
        ps.map fun p => encode (.pix p)) := by
  rw [asmFrame, if_pos (by rw [List.length_map, hcount]), asmConfig_toNat w h t bg hm, joinWords_asmPix]
  simp

/-- Settles O58: one expansion lemma for each pseudo-instruction. -/
theorem pseudoInstructionsExpand : Obligations.PseudoInstructionsExpand :=
  ⟨fun w h t _ bg hm => asmConfig_toNat w h t bg hm, fun _ hne => asmRow_toNat hne, asmFill_toNat,
    fun _ _ t _ bg _ hm hcount => asmFrame_toNat t bg hm hcount⟩

end Sys2Proof.Machine
end

section
/-! The configuration commands (40_config_commands.md R110 to R112): what each answers in each phase, the words of SETW and
SETH, and the START after them. -/

namespace Sys2Proof.Machine

/-! ### The modes (10_state.md R24) -/

theorem modeOfField_modeCode (m : Mode) : modeOfField (modeCode m) = some m := by cases m <;> rfl

/-- Only the reserved field is no mode's code (40_config_commands.md R113). -/
theorem exists_modeCode_eq {f : BitVec 2} (h : f ≠ 3#2) : ∃ m, modeCode m = f := by
  have hcodes : f = 0#2 ∨ f = 1#2 ∨ f = 2#2 := by bv_omega
  rcases hcodes with rfl | rfl | rfl
  · exact ⟨.threshold, rfl⟩
  · exact ⟨.diffuse, rfl⟩
  · exact ⟨.ordered, rfl⟩

/-! ### The commands by phase (40_config_commands.md R110) -/

section Configuration
variable {i : Instr} {s : State}

theorem exec_setw (w : BitVec 12) (s : State) :
    exec (.setw w) s = inIdle (fun s => .next { s with width := w }) s := rfl

theorem exec_seth (h : BitVec 12) (s : State) :
    exec (.seth h) s = inIdle (fun s => .next { s with height := h }) s := rfl

theorem exec_sett (t : BitVec 8) (s : State) :
    exec (.sett t) s = inIdle (fun s => .next { s with thresh := t }) s := rfl

theorem exec_setm_modeCode (m : Mode) (bg : Bool) (s : State) :
    exec (.setm (modeCode m) bg) s = inIdle (fun s => .next { s with mode := m, bg := bg }) s := by
  change execSetm (modeCode m) bg s = _
  rw [execSetm, modeOfField_modeCode]

theorem exec_setw_idle (w : BitVec 12) (hp : s.ph = .idle) : exec (.setw w) s = .next { s with width := w } := by
  rw [exec_setw, inIdle_idle hp]

theorem exec_seth_idle (h : BitVec 12) (hp : s.ph = .idle) : exec (.seth h) s = .next { s with height := h } := by
  rw [exec_seth, inIdle_idle hp]

theorem exec_sett_idle (t : BitVec 8) (hp : s.ph = .idle) : exec (.sett t) s = .next { s with thresh := t } := by
  rw [exec_sett, inIdle_idle hp]

theorem exec_setm_idle (m : Mode) (bg : Bool) (hp : s.ph = .idle) :
    exec (.setm (modeCode m) bg) s = .next { s with mode := m, bg := bg } := by
  rw [exec_setm_modeCode, inIdle_idle hp]

/-- A well-formed configuration command is a write that `inIdle` guards. -/
theorem exec_configuration (hc : isConfiguration i = true) (hwf : i.wellFormed = true) :
    ∃ write : State → State, ∀ s, exec i s = inIdle (fun s => .next (write s)) s := by
  cases i with
  | setw w => exact ⟨_, exec_setw w⟩
  | seth h => exact ⟨_, exec_seth h⟩
  | sett t => exact ⟨_, exec_sett t⟩
  | setm f bg =>
    obtain ⟨m, rfl⟩ := exists_modeCode_eq (bne_iff_ne.mp hwf)
    exact ⟨_, exec_setm_modeCode m bg⟩
  | start => cases hc
  | pix p => cases hc
  | rst => cases hc

theorem exec_configuration_run (hc : isConfiguration i = true) (hwf : i.wellFormed = true) (hp : s.ph = .run) :
    exec i s = .next (raise .encodingError s) := by
  obtain ⟨write, hexec⟩ := exec_configuration hc hwf
  rw [hexec, inIdle_run hp]

theorem exec_configuration_err (hc : isConfiguration i = true) (hwf : i.wellFormed = true) (hp : s.ph = .err) :
    exec i s = .next s := by
  obtain ⟨write, hexec⟩ := exec_configuration hc hwf
  rw [hexec, inIdle_err hp]

end Configuration

/-- Settles O12: the writes in IDLE command by command; in RUN and in ERR the guard alone decides. -/
theorem configurationOnlyInIdle : Obligations.ConfigurationOnlyInIdle := by
  refine ⟨fun s hp => ⟨?setw, ?seth, ?sett, ?threshold, ?diffuse, ?ordered⟩,
    fun s i hc hwf => ⟨fun hp => ?run, fun hp => ?err⟩⟩
  case setw => exact fun w => exec_setw_idle w hp
  case seth => exact fun h => exec_seth_idle h hp
  case sett => exact fun t => exec_sett_idle t hp
  case threshold => exact fun bg => exec_setm_idle .threshold bg hp
  case diffuse => exact fun bg => exec_setm_idle .diffuse bg hp
  case ordered => exact fun bg => exec_setm_idle .ordered bg hp
  case run => exact exec_configuration_run hc hwf hp
  case err => exact exec_configuration_err hc hwf hp

/-! ### Words of Format D (30_encoding.md R80) -/

theorem formatD_eq_or (op : BitVec 4) (v : BitVec 12) : op ++ v = op.setWidth 16 <<< 12 ||| v.setWidth 16 := by
  rw [← BitVec.setWidth_append_eq_shiftLeft_setWidth_or, BitVec.setWidth_eq]

theorem encode_setw_eq_or (w : BitVec 12) : encode (.setw w) = 0x1000#16 ||| w.setWidth 16 := formatD_eq_or 0x1#4 w

theorem encode_seth_eq_or (h : BitVec 12) : encode (.seth h) = 0x2000#16 ||| h.setWidth 16 := formatD_eq_or 0x2#4 h

/-! ### The next START (41_frame_control.md R121) -/

theorem geometryBad_iff_not_good {s : State} : geometryBad s = true ↔ ¬ GoodGeometry s := by
  constructor
  · intro hbad hgood
    simp [hgood.geometryBad_eq] at hbad
  · intro hnot
    by_contra hok
    simp only [geometryBad, Bool.or_eq_true, beq_iff_eq, decide_eq_true_eq, not_or, not_lt] at hok
    obtain ⟨⟨hw, hh⟩, hmax⟩ := hok
    exact hnot ⟨by bv_omega, hmax, by bv_omega⟩

theorem exec_start_bad {s : State} (hp : s.ph = .idle) (hbad : ¬ GoodGeometry s) :
    exec .start s = .next (raise .invalidGeometry s) := by
  change execStart s = _
  rw [execStart, inIdle_idle hp, geometryBad_iff_not_good.mpr hbad]
  rfl

/-- Settles O13: the phases are those of every configuration command; a width that is 0 or above `W_MAX` is no good
geometry, whatever the height. -/
theorem setwStoresWidth : Obligations.SetwStoresWidth := by
  intro w s
  refine ⟨encode_setw_eq_or w, exec_setw_idle w, exec_configuration_run rfl rfl, fun hp hw => ?unusable⟩
  case unusable =>
    refine exec_start_bad hp fun hgood => ?_
    have hpos : 1 ≤ w.toNat := hgood.width_pos
    have hmax : w.toNat ≤ s.params.wMax := hgood.width_le
    omega

/-- Settles O14: a height of 0 is no good geometry; any other height and a usable width are one, so START begins the
frame and keeps the height. -/
theorem sethStoresHeight : Obligations.SethStoresHeight := by
  intro h s
  refine ⟨encode_seth_eq_or h, exec_seth_idle h, exec_configuration_run rfl rfl, fun hp hh => ?unusable,
    fun hp hh hw hmax => ?usable⟩
  case unusable =>
    refine exec_start_bad hp fun hgood => ?_
    have hpos : 1 ≤ h.toNat := hgood.height_pos
    omega
  case usable =>
    have hgood : GoodGeometry { s with height := h } :=
      ⟨Nat.one_le_iff_ne_zero.mpr hw, hmax, Nat.one_le_iff_ne_zero.mpr hh⟩
    exact ⟨_, exec_start_ready hp hgood, rfl, rfl⟩

end Sys2Proof.Machine
end

section
/-! The order of the step's tests (41_frame_control.md R120): what each command answers outside the phase it is legal in,
and START in phase IDLE. -/

namespace Sys2Proof.Machine

section PhaseTests
variable {s : State} {w : Word} {i : Instr}

/-! ### The kinds of commands -/

/-- The decoder never answers SETM with the reserved mode (30_encoding.md R81). -/
theorem wellFormed_of_decode (hd : decode w = .command i) : i.wellFormed = true := by
  have hfields := decode_eq_command_iff.mp hd
  cases i with
  | setm mode bg =>
    obtain ⟨-, -, hmode, rfl, -⟩ := hfields
    exact bne_iff_ne.mpr hmode
  | setw | seth | sett | start | pix | rst => rfl

theorem instr_kinds (i : Instr) : isConfiguration i = true ∨ i = .start ∨ (∃ p, i = .pix p) ∨ i = .rst := by
  cases i with
  | setw | seth | sett | setm => exact .inl rfl
  | start => exact .inr (.inl rfl)
  | pix p => exact .inr (.inr (.inl ⟨p, rfl⟩))
  | rst => exact .inr (.inr (.inr rfl))

/-! ### Commands out of phase (41_frame_control.md R120 steps 2 and 4) -/

theorem exec_start (s : State) :
    exec .start s = inIdle (fun s => .next (if geometryBad s then raise .invalidGeometry s else beginFrame s)) s := rfl

theorem exec_pix (p : Byte) (s : State) :
    exec (.pix p) s = inRun (fun s => if bufferReached s then .next (pixelStep p s) else .fault .lineBufferIndex) s := rfl

theorem exec_start_run (hp : s.ph = .run) : exec .start s = .next (raise .encodingError s) := by
  rw [exec_start, inIdle_run hp]

theorem exec_start_err (hp : s.ph = .err) : exec .start s = .next s := by
  rw [exec_start, inIdle_err hp]

theorem exec_pix_idle (p : Byte) (hp : s.ph = .idle) : exec (.pix p) s = .next (raise .encodingError s) := by
  rw [exec_pix, inRun_idle hp]

theorem exec_pix_err (p : Byte) (hp : s.ph = .err) : exec (.pix p) s = .next s := by
  rw [exec_pix, inRun_err hp]

/-- ERR ignores every command but RST. -/
theorem exec_err (hwf : i.wellFormed = true) (hi : i ≠ .rst) (hp : s.ph = .err) : exec i s = .next s := by
  rcases instr_kinds i with hc | rfl | ⟨p, rfl⟩ | rfl
  · exact exec_configuration_err hc hwf hp
  · exact exec_start_err hp
  · exact exec_pix_err p hp
  · exact absurd rfl hi

/-- RUN takes no command that is legal in IDLE only. -/
theorem exec_idleOnly_run (hwf : i.wellFormed = true) (hi : isConfiguration i = true ∨ i = .start) (hp : s.ph = .run) :
    exec i s = .next (raise .encodingError s) := by
  rcases hi with hc | rfl
  · exact exec_configuration_run hc hwf hp
  · exact exec_start_run hp

/-- In ERR the step takes any word but RST from the input, ILLEGAL or not, and does nothing else. -/
theorem step_err {rest : List HostEvent} (hi : s.input = .command w :: rest) (hd : decode w ≠ .command .rst)
    (hp : s.ph = .err) : step s = .next (withInput rest s) := by
  cases hw : decode w with
  | illegal why => rw [step_illegal hi hw, illegalCommand_err (s := withInput rest s) hp]
  | command i =>
    have hrst : i ≠ .rst := fun h => hd (h ▸ hw)
    rw [step_command hi hw, exec_err (s := withInput rest s) (wellFormed_of_decode hw) hrst hp]

end PhaseTests

/-- Settles O9: RST resets whatever the phase; ERR is decided before the word's kind; then an ILLEGAL word, then the
commands out of phase by the guards of their meanings; what is left is executed. -/
theorem stepTestsInOrder : Obligations.StepTestsInOrder := by
  rintro s _ w rest hi rfl
  refine ⟨?rst, ?err, ?illegal, ?idleOnlyInRun, ?pixInIdle, fun _ _ hd _ => step_command hi hd,
    fun _ _ hd => step_command hi hd⟩
  case rst => exact fun hd => step_command hi hd
  case err => exact fun hd hp => step_err hi hd hp
  case illegal =>
    intro why hp hd
    rw [step_illegal hi hd, illegalCommand_live (s := withInput rest s) hp]
    rfl
  case idleOnlyInRun =>
    intro i hp hd hkind
    exact (step_command hi hd).trans (exec_idleOnly_run (wellFormed_of_decode hd) hkind hp)
  case pixInIdle =>
    intro p hp hd
    exact (step_command hi hd).trans (exec_pix_idle p hp)

/-! ### START in IDLE (41_frame_control.md R121, R122) -/

/-- 60_exceptions.md R181: the three ways a geometry can be unusable are all there are. -/
theorem goodGeometry_iff {s : State} :
    GoodGeometry s ↔ s.width ≠ 0#12 ∧ s.height ≠ 0#12 ∧ s.width.toNat ≤ s.params.wMax := by
  constructor
  · rintro ⟨hw, hmax, hh⟩
    exact ⟨by bv_omega, by bv_omega, hmax⟩
  · rintro ⟨hw, hh, hmax⟩
    exact ⟨by bv_omega, hmax, by bv_omega⟩

/-- Settles O18: a usable geometry begins the frame, and the buffer `init_frame` leaves reads 0 at every index. -/
theorem startBeginsFrame : Obligations.StartBeginsFrame := by
  intro s hp hw hh hmax
  exact ⟨beginFrame s, exec_start_ready hp (goodGeometry_iff.mpr ⟨hw, hh, hmax⟩), read_zero, rfl⟩

end Sys2Proof.Machine
end

section
/-! The sequencer's transition table (41_frame_control.md R126), its rows as lemmas about what the step answers. -/

namespace Sys2Proof.Machine

section Rows
variable {s : State} {i : Instr}

theorem Inv.errcode_none (h : Inv s) (hp : s.ph ≠ .err) : s.errcode = none := by
  by_contra hcode
  exact hp (h.errcode.mp hcode)

theorem GoodGeometry.withInput (h : GoodGeometry s) (rest : List HostEvent) : GoodGeometry (withInput rest s) :=
  ⟨h.width_pos, h.width_le, h.height_pos⟩

/-! What is left to take is no part of what the rows speak of. -/

@[simp] theorem withInput_ph (rest : List HostEvent) (s : State) : (withInput rest s).ph = s.ph := rfl
@[simp] theorem withInput_x (rest : List HostEvent) (s : State) : (withInput rest s).x = s.x := rfl
@[simp] theorem withInput_y (rest : List HostEvent) (s : State) : (withInput rest s).y = s.y := rfl
@[simp] theorem withInput_done (rest : List HostEvent) (s : State) : (withInput rest s).done = s.done := rfl
@[simp] theorem withInput_errcode (rest : List HostEvent) (s : State) : (withInput rest s).errcode = s.errcode := rfl
@[simp] theorem withInput_bytes (rest : List HostEvent) (s : State) : (withInput rest s).bytes = s.bytes := rfl
@[simp] theorem withInput_pixels (rest : List HostEvent) (s : State) : (withInput rest s).pixels = s.pixels := rfl

/-- Every row of the table that enters ERR. -/
theorem raise_row (e : Cause) (rest : List HostEvent) (s : State) :
    (raise e (withInput rest s)).ph = .err ∧ sameSequencer s (raise e (withInput rest s)) ∧
      (raise e (withInput rest s)).errcode = some e ∧ nothingEmitted s (raise e (withInput rest s)) :=
  ⟨rfl, ⟨rfl, rfl, rfl⟩, rfl, rfl, rfl⟩

/-- In IDLE a configuration command writes nothing but configuration (40_config_commands.md R110). -/
theorem exec_configuration_idle (hc : isConfiguration i = true) (hwf : i.wellFormed = true) (hp : s.ph = .idle) :
    ∃ w h v m bg, exec i s = .next { s with width := w, height := h, thresh := v, mode := m, bg := bg } := by
  cases i with
  | setw w => exact ⟨w, s.height, s.thresh, s.mode, s.bg, exec_setw_idle w hp⟩
  | seth h => exact ⟨s.width, h, s.thresh, s.mode, s.bg, exec_seth_idle h hp⟩
  | sett v => exact ⟨s.width, s.height, v, s.mode, s.bg, exec_sett_idle v hp⟩
  | setm f bg =>
    obtain ⟨m, rfl⟩ := exists_modeCode_eq (bne_iff_ne.mp hwf)
    exact ⟨s.width, s.height, s.thresh, m, bg, exec_setm_idle m bg hp⟩
  | start | pix | rst => cases hc

/-! ### The three rows of PIX in RUN (42_quantizer.md R137) -/

/-- A byte is emitted at the end of every row, whatever BC is (44_preview_and_packer.md R167). -/
theorem pixelStep_bytes_rowEnd (p : Byte) (hend : s.x.toNat + 1 = s.width.toNat) :
    ∃ b, (pixelStep p s).bytes = s.bytes ++ [b] := by
  have hemit := (pixelStep_emissions p s).2
  rwa [if_pos (.inr hend)] at hemit

theorem InFrame.pixelStep_midRow (f : InFrame s) (p : Byte) (hp : s.ph = .run) (hx : s.x.toNat < s.width.toNat - 1) :
    (pixelStep p s).ph = .run ∧ (pixelStep p s).x.toNat = s.x.toNat + 1 ∧ (pixelStep p s).y = s.y ∧
      (pixelStep p s).done = false ∧
      (if s.bc = 7#3 then ∃ b, (pixelStep p s).bytes = s.bytes ++ [b] else (pixelStep p s).bytes = s.bytes) := by
  have hmid : s.x.toNat + 1 ≠ s.width.toNat := by omega
  have hlast : lastOfRow s = false := Bool.eq_false_iff.mpr (mt lastOfRow_iff.mp hmid)
  have hemit := (pixelStep_emissions p s).2
  simp only [hmid, or_false] at hemit
  refine ⟨?_, ?_, ?_, ?_, hemit⟩
  · simp [pixelStep_ph, hlast, hp]
  · rw [pixelStep_x, hlast, if_neg Bool.false_ne_true, toNat_add_one_of_lt f.x_lt]
  · simp [pixelStep_y, hlast]
  · simp [pixelStep_done, hlast, f.not_done]

theorem InFrame.pixelStep_rowEnd (f : InFrame s) (p : Byte) (hp : s.ph = .run) (hx : s.x.toNat = s.width.toNat - 1)
    (hy : s.y.toNat < s.height.toNat - 1) :
    (pixelStep p s).ph = .run ∧ (pixelStep p s).x = 0#12 ∧ (pixelStep p s).y.toNat = s.y.toNat + 1 ∧
      (pixelStep p s).done = false ∧ ∃ b, (pixelStep p s).bytes = s.bytes ++ [b] := by
  have hwidth := f.x_lt
  have hend : s.x.toNat + 1 = s.width.toNat := by omega
  have hlast : lastOfRow s = true := lastOfRow_iff.mpr hend
  have hmore : lastRow s = false := Bool.eq_false_iff.mpr (mt lastRow_iff.mp (by omega))
  refine ⟨?_, ?_, ?_, ?_, pixelStep_bytes_rowEnd p hend⟩
  · simp [pixelStep_ph, hmore, hp]
  · rw [pixelStep_x, if_pos hlast]
  · rw [pixelStep_y, if_pos hlast, toNat_add_one_of_lt f.y_lt]
  · simp [pixelStep_done, hmore, f.not_done]

/-- At the end of the frame Y is left at HEIGHT (10_state.md R35 (v)). -/
theorem InFrame.pixelStep_frameEnd (f : InFrame s) (p : Byte) (hx : s.x.toNat = s.width.toNat - 1)
    (hy : s.y.toNat = s.height.toNat - 1) :
    (pixelStep p s).ph = .idle ∧ (pixelStep p s).x = 0#12 ∧ (pixelStep p s).y = s.height ∧
      (pixelStep p s).done = true ∧ ∃ b, (pixelStep p s).bytes = s.bytes ++ [b] := by
  have hwidth := f.x_lt
  have hheight := f.y_lt
  have hend : s.x.toNat + 1 = s.width.toNat := by omega
  have hbottom : s.y.toNat + 1 = s.height.toNat := by omega
  have hlast : lastOfRow s = true := lastOfRow_iff.mpr hend
  have hframe : (lastOfRow s && lastRow s) = true := by rw [hlast, lastRow_iff.mpr hbottom]; rfl
  refine ⟨?_, ?_, ?_, ?_, pixelStep_bytes_rowEnd p hend⟩
  · rw [pixelStep_ph, if_pos hframe]
  · rw [pixelStep_x, if_pos hlast]
  · rw [pixelStep_y, if_pos hlast]
    exact BitVec.eq_of_toNat_eq ((toNat_add_one_of_lt f.y_lt).trans hbottom)
  · rw [pixelStep_done, if_pos hframe]

/-- In the reachable states a PIX in RUN always completes; the step takes its word and is the pixel's step. -/
theorem Inv.step_pix {w : Word} {rest : List HostEvent} {p : Byte} (h : Inv s) (hp : s.ph = .run)
    (hi : s.input = .command w :: rest) (hd : decode w = .command (.pix p)) :
    step s = .next (withInput rest (pixelStep p s)) := by
  have f := h.running hp
  have hb : bufferReached s = true := bufferReached_of_x_lt f.x_lt f.geometry
  rw [step_command hi hd, exec_pix_run p (s := withInput rest s) hp hb, pixelStep_withInput]

end Rows

/-- Settles O10: the order of the tests names the next state of every row, and each row is read off that state. -/
theorem sequencerFollowsTransitionTable : Obligations.SequencerFollowsTransitionTable := by
  intro s t w rest hinv hi ht
  obtain ⟨hrst, herr, hillegal, hidleOnly, hpixIdle, hexecIdle, -⟩ := stepTestsInOrder s (withInput rest s) w rest hi rfl
  have answer {u : State} (hu : step s = .next u) : u = t := Host.Outcome.next.inj (hu.symm.trans ht)
  have hcode (hp : s.ph ≠ .err) : s.errcode = none := hinv.errcode_none hp
  refine ⟨?rst, ?err, ?illegal, ?configuration, ?badStart, ?start, ?pixInIdle, ?idleOnlyInRun, ?pix⟩
  case rst =>
    intro hd
    obtain rfl := answer (hrst hd)
    exact ⟨rfl, rfl, rfl, rfl, rfl, rfl, rfl⟩
  case err =>
    intro hp hd
    obtain rfl := answer (herr hd hp)
    exact ⟨hp, ⟨rfl, rfl, rfl⟩, rfl, rfl, rfl⟩
  case illegal =>
    intro why hp hd
    obtain rfl := answer (hillegal why hp hd)
    exact raise_row _ rest s
  case configuration =>
    intro i hp hd hc
    obtain ⟨w', h', v', m', bg', hexec⟩ :=
      exec_configuration_idle (s := withInput rest s) hc (wellFormed_of_decode hd) hp
    obtain rfl := answer ((hexecIdle i hp hd (.inl hc)).trans hexec)
    exact ⟨hp, ⟨rfl, rfl, rfl⟩, hcode (by simp [hp]), rfl, rfl⟩
  case badStart =>
    intro hp hd hbad
    have hnot : ¬ GoodGeometry (withInput rest s) := fun hgood => by
      obtain ⟨hw, hh, hmax⟩ := goodGeometry_iff.mp hgood
      exact hbad.elim hw (Or.elim · hh (Nat.not_lt.mpr hmax))
    obtain rfl := answer ((hexecIdle _ hp hd (.inr rfl)).trans (exec_start_bad (s := withInput rest s) hp hnot))
    exact raise_row _ rest s
  case start =>
    intro hp hd hgood
    obtain rfl := answer ((hexecIdle _ hp hd (.inr rfl)).trans
      (exec_start_ready (s := withInput rest s) hp (hgood.withInput rest)))
    exact ⟨rfl, rfl, rfl, rfl, hcode (by simp [hp]), rfl, rfl⟩
  case pixInIdle =>
    intro p hp hd
    obtain rfl := answer (hpixIdle p hp hd)
    exact raise_row _ rest s
  case idleOnlyInRun =>
    intro i hp hd hkind
    obtain rfl := answer (hidleOnly i hp hd hkind)
    exact raise_row _ rest s
  case pix =>
    intro p hp hd
    have f := hinv.running hp
    obtain rfl := answer (hinv.step_pix hp hi hd)
    simp only [withInput_ph, withInput_x, withInput_y, withInput_done, withInput_errcode, withInput_bytes, withInput_pixels]
    exact ⟨(pixelStep_errcode p s).trans (hcode (by simp [hp])), (pixelStep_emissions p s).1,
      f.pixelStep_midRow p hp, f.pixelStep_rowEnd p hp, f.pixelStep_frameEnd p⟩

end Sys2Proof.Machine
end

section
/-! One pixel as a whole next state (42_quantizer.md R137): each part that follows the quantizer is one record update, and
together they are `afterPixel` with the end of the row for the carries and LB. -/

namespace Sys2Proof.Machine

section WholePixel
variable {s : State}

theorem flushes_iff_atByteEnd : flushes s = true ↔ atByteEnd s := by
  rw [flushes_iff, ← BitVec.toNat_inj]
  rfl

/-- 44_preview_and_packer.md R165: what joins SR is the inverted bit. -/
theorem place_not (m : Bool) (s : State) : place (!m) s = srWith m s := by
  cases m with
  | true => simp [place, srWith]
  | false =>
    have hbit : (1#8 : Byte) <<< (7 - s.bc.toNat) = BitVec.ofNat 8 (2 ^ (7 - s.bc.toNat)) :=
      BitVec.eq_of_toNat_eq (by simp [Nat.shiftLeft_eq])
    exact congrArg (s.sr ||| ·) hbit

theorem pack_eq (b : Bool) (s : State) :
    pack b s = { s with
      bytes := if atByteEnd s then s.bytes ++ [place b s] else s.bytes
      sr := if atByteEnd s then 0#8 else place b s
      bc := if atByteEnd s then 0#3 else s.bc + 1#3 } := by
  by_cases h : atByteEnd s
  · rw [pack, if_pos (flushes_iff_atByteEnd.mpr h)]
    simp only [if_pos h]
    rfl
  · rw [pack, if_neg (mt flushes_iff_atByteEnd.mp h)]
    simp only [if_neg h]

theorem closeRow_eq (s : State) :
    closeRow s = { s with
      c7 := if atRowEnd s then 0#11 else s.c7
      c51 := if atRowEnd s then 0#11 else s.c51
      c1 := if atRowEnd s then 0#9 else s.c1
      lb := if atRowEnd s then endOfRowBuffer s else s.lb } := by
  by_cases h : atRowEnd s
  · rw [closeRow, if_pos (lastOfRow_iff.mpr h)]
    simp only [if_pos h]
    rfl
  · rw [closeRow, if_neg (mt lastOfRow_iff.mp h)]
    simp only [if_neg h]

theorem advance_eq (s : State) :
    advance s = { s with
      x := if atRowEnd s then 0#12 else s.x + 1#12
      y := if atRowEnd s then s.y + 1#12 else s.y
      ph := if atFrameEnd s then .idle else s.ph
      done := if atFrameEnd s then true else s.done } := by
  by_cases hrow : atRowEnd s
  · rw [advance, if_pos (lastOfRow_iff.mpr hrow)]
    by_cases hlast : s.y.toNat + 1 = s.height.toNat
    · rw [if_pos (lastRow_iff.mpr hlast)]
      simp only [if_pos hrow, if_pos (⟨hrow, hlast⟩ : atFrameEnd s)]
    · rw [if_neg (mt lastRow_iff.mp hlast)]
      simp only [if_pos hrow, if_neg (fun h : atFrameEnd s => hlast h.2)]
  · rw [advance, if_neg (mt lastOfRow_iff.mp hrow)]
    simp only [if_neg hrow, if_neg (fun h : atFrameEnd s => hrow h.1)]

theorem outputPixel_eq (m : Bool) (s : State) :
    outputPixel m s = { afterPixel m s with
      c7 := if atRowEnd s then 0#11 else s.c7
      c51 := if atRowEnd s then 0#11 else s.c51
      c1 := if atRowEnd s then 0#9 else s.c1
      lb := if atRowEnd s then endOfRowBuffer s else s.lb } := by
  rw [outputPixel, advance_eq, closeRow_eq, pack_eq, place_not]
  rfl

theorem endOfRowBuffer_undiffused (h : s.mode ≠ .diffuse) : endOfRowBuffer s = s.lb := by
  unfold endOfRowBuffer
  split
  · exact absurd ‹s.mode = .diffuse› h
  · rfl

theorem bufferReached_undiffused (h : s.mode ≠ .diffuse) : bufferReached s = true := by
  cases hm : s.mode with
  | threshold | ordered => simp [bufferReached, hm]
  | diffuse => exact absurd hm h

/-- Outside MODE 1 a PIX in RUN completes, the quantizer's bit is all it gets from the mode, and LB is as before. -/
theorem exec_pix_undiffused (p : Byte) (hp : s.ph = .run) (h : s.mode ≠ .diffuse) :
    exec (.pix p) s = .next { afterPixel (quantize p s).1 s with
      c7 := if atRowEnd s then 0#11 else s.c7
      c51 := if atRowEnd s then 0#11 else s.c51
      c1 := if atRowEnd s then 0#9 else s.c1 } := by
  rw [exec_pix_run p hp (bufferReached_undiffused h), pixelStep, quantize_undiffused h, outputPixel_eq,
    endOfRowBuffer_undiffused h, ite_self]
  rfl

end WholePixel

/-- Settles O22: outside MODE 1 the next state is `afterPixel` of the quantizer's bit, which MODE 0 takes from the
comparator. -/
theorem pixInThresholdMode : Obligations.PixInThresholdMode := by
  intro p s hp hm
  rw [exec_pix_undiffused p hp (by simp [hm]), quantize_of_threshold p hm]
  rfl

end Sys2Proof.Machine
end

section
/-! A whole frame in MODE 0 under two thresholds (42_quantizer.md R131). -/

namespace Sys2Proof.Machine

/-- In MODE 0 a record is a function of its own luminance and the configuration (42_quantizer.md R130). -/
theorem recordsOf_threshold {s : State} (pixels : List Byte) (hm : s.mode = .threshold) :
    recordsOf pixels s = pixels.map fun p => pixelRecord (thresholdBit s.thresh p) s.bg := by
  induction pixels generalizing s with
  | nil => rfl
  | cons p pixels ih =>
    rw [recordsOf, quantize_of_threshold p hm, ih ((pixelStep_mode p s).trans hm), pixelStep_thresh, pixelStep_bg]
    rfl

/-- A frame in MODE 0 adds to the pixel stream the comparison of every luminance with THRESH. -/
theorem frame_pixels_threshold {s t : State} {pixels : List Byte} {rest : List HostEvent}
    (h : FrameReady s pixels rest) (hm : s.mode = .threshold) (ht : runSteps (1 + pixels.length) s = .next t) :
    t.pixels.drop s.pixels.length = pixels.map fun p => pixelRecord (thresholdBit s.thresh p) s.bg := by
  obtain rfl : afterFrame pixels rest s = t := Host.Outcome.next.inj ((runSteps_frame h).symm.trans ht)
  rw [afterFrame_pixels, List.drop_left, frameRecords]
  exact recordsOf_threshold pixels hm

/-- THRESH is no part of what makes the block ready for a frame. -/
theorem FrameReady.withThreshold {s : State} {pixels : List Byte} {rest : List HostEvent}
    (h : FrameReady s pixels rest) (v : Byte) : FrameReady { s with thresh := v } pixels rest :=
  ⟨h.idle, ⟨h.geometry.width_pos, h.geometry.width_le, h.geometry.height_pos⟩, h.count, h.input⟩

/-- A luminance below a threshold is below every higher one. -/
theorem thresholdBit_off_of_le {v1 v2 p : Byte} (hv : v1.toNat ≤ v2.toNat) (h : thresholdBit v1 p = false) :
    thresholdBit v2 p = false := by
  simp only [thresholdBit, decide_eq_false_iff_not] at h ⊢
  omega

theorem pixelRecord_eq_off_iff {m bg : Bool} : pixelRecord m bg = pixelRecord false bg ↔ m = false :=
  ⟨congrArg PixelRecord.m, congrArg (pixelRecord · bg)⟩

/-- Settles O49: both frames compare the same luminances, each with its own threshold, and off under the lower threshold
is off under the higher one, pixel by pixel. -/
theorem raisingThresholdKeepsForeground : Obligations.RaisingThresholdKeepsForeground := by
  intro s t u t1 t2 pixels rest h hm hlt ht hu
  rw [frame_pixels_threshold (h.withThreshold t1) hm ht, frame_pixels_threshold (h.withThreshold t2) hm hu]
  have hoff (p : Byte) : thresholdBit t1 p = false → thresholdBit t2 p = false := thresholdBit_off_of_le hlt.le
  constructor
  · intro i hi
    simp only [List.getElem?_map, Option.map_eq_some_iff, pixelRecord_eq_off_iff] at hi ⊢
    obtain ⟨p, hp, hbit⟩ := hi
    exact ⟨p, hp, hoff p hbit⟩
  · rw [foregroundCount, foregroundCount, List.countP_map, List.countP_map]
    refine List.countP_mono_left fun p _ hp => ?_
    simp only [Function.comp_apply, pixelRecord, Bool.not_eq_true'] at hp ⊢
    exact hoff p hp

end Sys2Proof.Machine
end

section
/-! The default threshold map (42_quantizer.md R134). -/

namespace Sys2Proof.Machine

/-- The thresholds of a tile of the default map, place by place. -/
def tileThresholds : List Nat := (List.range 16).map fun i => (ordThreshold defaultOrdMap (i % 4) (i / 4)).toNat

/-- 42_quantizer.md R134: 8, 24, 40, …, 248, each once. -/
theorem tileThresholds_perm : tileThresholds.Perm ((List.range 16).map fun b => 16 * b + 8) := by decide

/-- Of the first `n` thresholds 8, 24, 40, …, those at most `v` are the first `(v + 8) / 16`. -/
theorem countP_spacedThresholds (n v : Nat) :
    (List.range n).countP (fun b => decide (16 * b + 8 ≤ v)) = min n ((v + 8) / 16) := by
  induction n with
  | zero => simp
  | succ n ih =>
    rw [List.range_succ, List.countP_append, ih, List.countP_singleton]
    by_cases h : 16 * n + 8 ≤ v
    · simp only [h, decide_true, if_true]; omega
    · simp only [h, decide_false, Bool.false_eq_true, if_false]; omega

/-- Settles O51: the tile's thresholds are a rearrangement of evenly spaced ones, and a rearrangement does not change how
many of them a luminance reaches. -/
theorem defaultMapOnFlatField : Obligations.DefaultMapOnFlatField := by
  refine ⟨by decide, fun lum => ?_⟩
  have hlum := lum.isLt
  calc (List.range 16).countP (fun i => thresholdBit (ordThreshold defaultOrdMap (i % 4) (i / 4)) lum)
      = tileThresholds.countP (fun v => decide (v ≤ lum.toNat)) := by rw [tileThresholds, List.countP_map]; rfl
    _ = ((List.range 16).map fun b => 16 * b + 8).countP (fun v => decide (v ≤ lum.toNat)) :=
        tileThresholds_perm.countP_eq _
    _ = min 16 ((lum.toNat + 8) / 16) := by rw [List.countP_map]; exact countP_spacedThresholds 16 lum.toNat
    _ = (lum.toNat + 8) / 16 := by omega

end Sys2Proof.Machine
end

section
/-! One pixel of MODE 1 under the decided algorithm (43_error_diffusion.md R141, R145): the bit of the quantizer, and what
the carries and LB hold afterwards, as integers. -/

namespace Sys2Proof.Machine

/-! ### The integers of the rule (43_error_diffusion.md R141, R147) -/

theorem tdiv16_eq_tdiv (v : Int) : tdiv16 v = Int.tdiv v 16 := by
  unfold tdiv16
  split
  · exact (Int.tdiv_eq_ediv_of_nonneg ‹0 ≤ v›).symm
  · rw [← Int.tdiv_eq_ediv_of_nonneg (by omega), Int.neg_tdiv, neg_neg]

theorem clip8_eq_max_min (v : Int) : clip8 v = max 0 (min 255 v) := by
  unfold clip8
  split
  · omega
  · split <;> omega

theorem correctedLum_eq (lum : Byte) (v : Int) : correctedLum lum v = max 0 (min 255 (lum.toNat + Int.tdiv v 16)) := by
  rw [correctedLum, clip8_eq_max_min, tdiv16_eq_tdiv]

theorem quantError_eq (l : Int) : quantError l = l - 255 * (if diffuseBit l then 1 else 0) := by
  unfold quantError
  split <;> omega

theorem pixelError_range (lum : Byte) (v : Int) : -126 ≤ pixelError lum v ∧ pixelError lum v ≤ 128 := by
  obtain ⟨h0, h1⟩ := correctedLum_range lum v
  exact quantError_range h0 h1

/-! ### The pixel's step -/

/-- `t` follows `s` by a pixel of error `e`: the carries and LB of R141 and, at the end of a row, of R145. -/
structure ErrorPassed (e : Int) (s t : State) : Prop where
  c7 : t.c7.toInt = if atRowEnd s then 0 else 7 * e
  c51 : t.c51.toInt = if atRowEnd s then 0 else 5 * e + s.c1.toInt
  c1 : t.c1.toInt = if atRowEnd s then 0 else e
  /-- The total for column X - 1 of the next row. -/
  completed : (t.lb.read s.x.toNat).toInt = 3 * e + s.c51.toInt
  /-- The total for the last column of the next row. -/
  last : atRowEnd s → (t.lb.read s.width.toNat).toInt = 5 * e + s.c1.toInt
  others : ∀ i, i ≠ s.x.toNat → ¬ (atRowEnd s ∧ i = s.width.toNat) → t.lb.read i = s.lb.read i
  canonical : t.lb.wf = true

section FloydSteinberg
variable {s : State} (p : Byte)

theorem quantize_eq_passError (hm : s.mode = .diffuse) (hd : s.params.diffusion = .floydSteinberg) :
    quantize p s =
      (diffuseBit (correctedLum p (incomingError s)), passError (pixelError p (incomingError s)) s) := by
  rw [quantize_of_floydSteinberg p hm hd]
  rfl

theorem endOfRowBuffer_floydSteinberg (hm : s.mode = .diffuse) (hd : s.params.diffusion = .floydSteinberg) :
    endOfRowBuffer s = s.lb.write s.width.toNat (BitVec.ofInt 12 s.c51.toInt) := by
  simp [endOfRowBuffer, hm, hd]

/-- Inside a row the registers receive the integers of R141 exactly (43_error_diffusion.md R147, R148). -/
theorem errorPassed_midRow (hm : s.mode = .diffuse) (hd : s.params.diffusion = .floydSteinberg)
    (hwf : s.lb.wf = true) (hmid : ¬ atRowEnd s) :
    ErrorPassed (pixelError p (incomingError s)) s (pixelStep p s) := by
  obtain ⟨h0, h1⟩ := pixelError_range p (incomingError s)
  have hlast : ¬ lastOfRow s = true := mt lastOfRow_iff.mp hmid
  have hlb : (pixelStep p s).lb = (passError (pixelError p (incomingError s)) s).lb := by
    rw [pixelStep_lb, if_neg hlast, quantize_eq_passError p hm hd]
  refine ⟨?c7, ?c51, ?c1, ?completed, fun h => absurd h hmid, ?others, ?canonical⟩
  case c7 => rw [pixelStep_c7, if_neg hlast, if_neg hmid, quantize_eq_passError p hm hd]; exact c7_exact h0 h1
  case c51 => rw [pixelStep_c51, if_neg hlast, if_neg hmid, quantize_eq_passError p hm hd]; exact c51_exact h0 h1 s.c1
  case c1 => rw [pixelStep_c1, if_neg hlast, if_neg hmid, quantize_eq_passError p hm hd]; exact c1_exact h0 h1
  case completed => rw [hlb, passError_lb, read_write_same hwf, entry_exact h0 h1]
  case others => exact fun i hi _ => by rw [hlb, passError_lb, read_write_other _ _ hi]
  case canonical => rw [hlb]; exact write_wf hwf _ _

/-- At the end of a row the carries are cleared and C51 goes to LB[WIDTH] (43_error_diffusion.md R145). -/
theorem errorPassed_rowEnd (hm : s.mode = .diffuse) (hd : s.params.diffusion = .floydSteinberg)
    (hwf : s.lb.wf = true) (hend : atRowEnd s) :
    ErrorPassed (pixelError p (incomingError s)) s (pixelStep p s) := by
  obtain ⟨h0, h1⟩ := pixelError_range p (incomingError s)
  have hlast : lastOfRow s = true := lastOfRow_iff.mpr hend
  have hne : s.x.toNat ≠ s.width.toNat := by omega
  have hcanonical : (passError (pixelError p (incomingError s)) s).lb.wf = true := write_wf hwf _ _
  have hlb : (pixelStep p s).lb = (passError (pixelError p (incomingError s)) s).lb.write s.width.toNat
      (BitVec.ofInt 12 (passError (pixelError p (incomingError s)) s).c51.toInt) := by
    rw [pixelStep_lb, if_pos hlast, quantize_eq_passError p hm hd]
    exact endOfRowBuffer_floydSteinberg (s := passError _ s) hm hd
  refine ⟨?c7, ?c51, ?c1, ?completed, fun _ => ?last, ?others, ?canonical⟩
  case c7 => rw [pixelStep_c7, if_pos hlast, if_pos hend]; rfl
  case c51 => rw [pixelStep_c51, if_pos hlast, if_pos hend]; rfl
  case c1 => rw [pixelStep_c1, if_pos hlast, if_pos hend]; rfl
  case completed => rw [hlb, read_write_other _ _ hne, passError_lb, read_write_same hwf, entry_exact h0 h1]
  case last => rw [hlb, read_write_same hcanonical, last_entry_exact, passError_c51, c51_exact h0 h1]
  case others =>
    intro i hi hw
    rw [hlb, read_write_other _ _ (fun h => hw ⟨hend, h⟩), passError_lb, read_write_other _ _ hi]
  case canonical => rw [hlb]; exact write_wf hcanonical _ _

theorem errorPassed_pixelStep (hm : s.mode = .diffuse) (hd : s.params.diffusion = .floydSteinberg)
    (hwf : s.lb.wf = true) : ErrorPassed (pixelError p (incomingError s)) s (pixelStep p s) := by
  by_cases hend : atRowEnd s
  · exact errorPassed_rowEnd p hm hd hwf hend
  · exact errorPassed_midRow p hm hd hwf hend

end FloydSteinberg

/-- Settles O24: the rule's `l`, `m` and `e` are the model's, and `ErrorPassed` says where the error goes. -/
theorem pixInDiffuseMode : Obligations.PixInDiffuseMode := by
  intro p s v l e m hp hm hd hwf hx hv hl hbit he
  have hreached : bufferReached s = true := by simpa [bufferReached, hm] using hx
  obtain rfl : v = incomingError s := hv
  obtain rfl : l = correctedLum p (incomingError s) := hl.trans (correctedLum_eq p _).symm
  obtain rfl : m = diffuseBit (correctedLum p (incomingError s)) := hbit
  obtain rfl : e = pixelError p (incomingError s) := he.trans (quantError_eq _).symm
  have hpassed := errorPassed_pixelStep p hm hd hwf
  refine ⟨pixelStep p s, exec_pix_run p hp hreached, ?state, hpassed.c7, hpassed.c51, hpassed.c1, hpassed.completed,
    hpassed.last, hpassed.others, hpassed.canonical⟩
  case state =>
    rw [pixelStep, quantize_eq_passError p hm hd, outputPixel_eq]
    rfl

end Sys2Proof.Machine
end

section
/-! The ranges of MODE 1 under the decided algorithm (43_error_diffusion.md R148): those of the state bound the integers of
the next pixel, and these bound the state after it. -/

namespace Sys2Proof.Machine

section Ranges
variable {s t : State}

theorem tdiv16_range {v : Int} (h0 : -2016 ≤ v) (h1 : v ≤ 2048) : -126 ≤ tdiv16 v ∧ tdiv16 v ≤ 128 := by
  unfold tdiv16
  split <;> omega

/-- The error of an on pixel is negative or 0, that of an off pixel is positive or 0. -/
theorem quantError_range_of_bit {l : Int} (h0 : 0 ≤ l) (h1 : l ≤ 255) :
    if diffuseBit l then 129 ≤ l ∧ -126 ≤ quantError l ∧ quantError l ≤ 0
    else l ≤ 128 ∧ 0 ≤ quantError l ∧ quantError l ≤ 128 := by
  have hbit : diffuseBit l = true ↔ 128 < l := decide_eq_true_iff
  rw [quantError_eq]
  by_cases h : diffuseBit l = true
  · have := hbit.mp h
    simp only [if_pos h]
    omega
  · have := mt hbit.mpr h
    simp only [if_neg h]
    omega

theorem InRanges.incomingError_range (h : InRanges s) : -2016 ≤ incomingError s ∧ incomingError s ≤ 2048 := by
  have hc7 := h.c7
  have hlb := h.lb (s.x.toNat + 1)
  unfold incomingError
  omega

theorem inRanges_beginFrame (s : State) : InRanges (beginFrame s) where
  c7 := by simp
  c51 := by simp
  c1 := by simp
  lb i := by simp [read_zero]

/-- An error in the range of R148 is passed on within the ranges, whichever entry it reaches. -/
theorem InRanges.of_errorPassed {e : Int} (h : InRanges s) (hpassed : ErrorPassed e s t) (he : -126 ≤ e ∧ e ≤ 128) :
    InRanges t := by
  have hc51 := h.c51
  have hc1 := h.c1
  refine ⟨?c7, ?c51, ?c1, fun i => ?lb⟩
  case c7 => rw [hpassed.c7]; split <;> omega
  case c51 => rw [hpassed.c51]; split <;> omega
  case c1 => rw [hpassed.c1]; split <;> omega
  case lb =>
    by_cases hx : i = s.x.toNat
    · rw [hx, hpassed.completed]
      omega
    · by_cases hw : atRowEnd s ∧ i = s.width.toNat
      · rw [hw.2, hpassed.last hw.1]
        omega
      · rw [hpassed.others i hx hw]
        exact h.lb i

/-- In RUN a PIX that completes is the pixel's step. -/
theorem exec_pix_run_eq {p : Byte} (hp : s.ph = .run) (h : exec (.pix p) s = .next t) : pixelStep p s = t := by
  rcases execPix_next h with ⟨herr, -⟩ | ⟨hidle, -⟩ | ⟨-, -, ht⟩
  · rw [hp] at herr; cases herr
  · rw [hp] at hidle; cases hidle
  · exact ht.symm

end Ranges

/-- Settles O34: the incoming error is in range by the state's ranges, the later integers by it, and the state after the
pixel by the error's. -/
theorem diffusionStaysInRange : Obligations.DiffusionStaysInRange := by
  constructor
  · intro s t hp hg ht
    obtain rfl : beginFrame s = t := Host.Outcome.next.inj ((exec_start_ready hp hg).symm.trans ht)
    exact inRanges_beginFrame s
  · intro p s t h hwf hp hm hd ht
    obtain rfl := exec_pix_run_eq hp ht
    have hv := h.incomingError_range
    have hq := tdiv16_range hv.1 hv.2
    have hl := correctedLum_range p (incomingError s)
    have hlum := p.isLt
    exact ⟨h.of_errorPassed (errorPassed_pixelStep p hm hd hwf) (pixelError_range p _), hv, hq, by omega, hl,
      quantError_range_of_bit hl.1 hl.2⟩

end Sys2Proof.Machine
end

section
/-! The errors of a picture (43_error_diffusion.md R142): 0 outside the frame, and inside it those of the equation. -/

namespace Sys2Proof.Machine

section PictureErrors
variable {w : Nat} {lum : Nat → Nat → Byte} {x y : Int}

theorem errorAt_left (hx : x < 0) : errorAt w lum x y = 0 := if_neg (by omega)

theorem errorAt_above (hy : y < 0) : errorAt w lum x y = 0 := if_neg (by omega)

theorem errorAt_natCast (w : Nat) (lum : Nat → Nat → Byte) (x y : Nat) :
    errorAt w lum x y = frameErrors w lum y x := if_pos (by omega)

theorem errorAt_right (hx : (w : Int) ≤ x) : errorAt w lum x y = 0 := by
  unfold errorAt
  split
  · have hbeyond : ¬ x.toNat < w := by omega
    cases y.toNat <;> exact if_neg hbeyond
  · rfl

/-- Every row, the first one too, comes from the errors above it. -/
theorem errorAt_eq_rowErrors {x y : Nat} (hx : x < w) :
    errorAt w lum x y = rowErrors (lum y) (fun i => errorAt w lum i (y - 1)) x := by
  rw [errorAt_natCast]
  cases y with
  | zero =>
    have habove : (fun i : Nat => errorAt w lum i (((0 : Nat) : Int) - 1)) = fun _ => 0 :=
      funext fun _ => errorAt_above (by omega)
    rw [habove]
    exact if_pos hx
  | succ y =>
    have habove : (fun i : Nat => errorAt w lum i (((y + 1 : Nat) : Int) - 1)) = frameErrors w lum y := by
      funext i
      rw [Nat.cast_succ, add_sub_cancel_right, errorAt_natCast]
    rw [habove]
    exact if_pos hx

/-- 43_error_diffusion.md R142: the equation, at every pixel inside the frame. -/
theorem errorAt_eq_pixelError {x y : Nat} (hx : x < w) :
    errorAt w lum x y = pixelError (lum y x) (incomingAt w lum x y) := by
  rw [errorAt_eq_rowErrors hx]
  cases x with
  | zero =>
    rw [rowErrors, incomingAt, errorAt_left (x := ((0 : Nat) : Int) - 1) (by omega),
      errorAt_left (x := ((0 : Nat) : Int) - 1) (by omega)]
    simp
  | succ x =>
    rw [rowErrors, ← errorAt_eq_rowErrors (by omega), incomingAt, Nat.cast_succ, add_sub_cancel_right]
    rfl

end PictureErrors

end Sys2Proof.Machine
end

section
/-! The machine follows the picture's errors (43_error_diffusion.md R144): what the registers hold before a pixel gives the
incoming error of the equation, and the pixel's step moves what they hold one place on. -/

namespace Sys2Proof.Machine

section Tracks
variable {lum : Nat → Nat → Byte} {s t : State}

/-- A START leaves every register at 0, as the errors above and to the left of the first pixel are. -/
theorem diffusionTracks_beginFrame (lum : Nat → Nat → Byte) (s : State) : DiffusionTracks lum (beginFrame s) where
  c7 := by simp [errorAt_left]
  c51 := by simp [errorAt_left]
  c1 := by simp [errorAt_left]
  above i _ _ _ := by simp [read_zero, sentDown, errorAt_above]
  below i _ hi := absurd hi (Nat.not_lt_zero i)
  first := by simp [read_zero, errorAt_above]

/-- C7 and LB[X + 1] together are the four shares the pixel receives. -/
theorem DiffusionTracks.incomingError_eq (h : DiffusionTracks lum s) (hx : s.x.toNat < s.width.toNat) :
    incomingError s = incomingAt s.width.toNat lum s.x.toNat s.y.toNat := by
  have habove := h.above (s.x.toNat + 1) (by omega) (by omega) hx
  rw [incomingError, h.c7, habove, sentDown, incomingAt, Nat.cast_succ, add_sub_cancel_right,
    show (s.x.toNat : Int) + 1 - 2 = s.x.toNat - 1 by ring]
  ring

theorem DiffusionTracks.pixelError_eq (h : DiffusionTracks lum s) (hx : s.x.toNat < s.width.toNat) :
    pixelError (lum s.y.toNat s.x.toNat) (incomingError s) = errorAt s.width.toNat lum s.x.toNat s.y.toNat := by
  rw [h.incomingError_eq hx, errorAt_eq_pixelError hx]

/-- The bit of the equation is the one the quantizer answers. -/
theorem DiffusionTracks.quantize_eq (h : DiffusionTracks lum s) (hx : s.x.toNat < s.width.toNat)
    (hm : s.mode = .diffuse) (hd : s.params.diffusion = .floydSteinberg) :
    (quantize (lum s.y.toNat s.x.toNat) s).1 = diffusedBit s.width.toNat lum s.y.toNat s.x.toNat := by
  rw [quantize_eq_passError _ hm hd, h.incomingError_eq hx]
  rfl

/-! ### What the pixel's error makes of LB -/

/-- Entries 1 to X are complete for the next row. -/
theorem DiffusionTracks.sent (h : DiffusionTracks lum s)
    (hpassed : ErrorPassed (errorAt s.width.toNat lum s.x.toNat s.y.toNat) s t) {i : Nat} (h1 : 1 ≤ i)
    (hi : i ≤ s.x.toNat) : (t.lb.read i).toInt = sentDown s.width.toNat lum i s.y.toNat := by
  rcases Nat.lt_or_eq_of_le hi with hlt | rfl
  · rw [hpassed.others i hlt.ne (fun hw => by omega), h.below i h1 hlt]
  · rw [hpassed.completed, h.c51, sentDown, add_assoc]

theorem DiffusionTracks.sent_first (h : DiffusionTracks lum s)
    (hpassed : ErrorPassed (errorAt s.width.toNat lum s.x.toNat s.y.toNat) s t) :
    (t.lb.read 0).toInt = 3 * errorAt s.width.toNat lum 0 s.y.toNat := by
  by_cases h0 : s.x.toNat = 0
  · have hc51 := h.c51
    rw [h0, errorAt_left (by omega), errorAt_left (by omega)] at hc51
    have hcompleted := hpassed.completed
    rw [hc51, h0] at hcompleted
    simpa using hcompleted
  · have hne : s.x ≠ 0#12 := fun hx0 => h0 (congrArg BitVec.toNat hx0)
    rw [hpassed.others 0 (Ne.symm h0) (fun hw => by omega), h.first, if_neg hne]

/-! ### The step -/

theorem DiffusionTracks.step_midRow (h : DiffusionTracks lum s)
    (hpassed : ErrorPassed (errorAt s.width.toNat lum s.x.toNat s.y.toNat) s t) (hmid : ¬ atRowEnd s)
    (hwidth : t.width = s.width) (hcol : t.x.toNat = s.x.toNat + 1) (hrow : t.y = s.y) : DiffusionTracks lum t := by
  have hleft : ((s.x.toNat + 1 : Nat) : Int) - 1 = s.x.toNat := by omega
  have hleft2 : ((s.x.toNat + 1 : Nat) : Int) - 2 = s.x.toNat - 1 := by omega
  refine ⟨?c7, ?c51, ?c1, ?above, ?below, ?first⟩
  case c7 => rw [hpassed.c7, if_neg hmid, hwidth, hcol, hrow, hleft]
  case c51 => rw [hpassed.c51, if_neg hmid, hwidth, hcol, hrow, hleft, hleft2, h.c1]
  case c1 => rw [hpassed.c1, if_neg hmid, hwidth, hcol, hrow, hleft]
  case above =>
    intro i h1 hi hw
    rw [hcol] at hi
    rw [hwidth] at hw
    rw [hpassed.others i (by omega) (fun hend => hmid hend.1), hwidth, hrow]
    exact h.above i h1 (by omega) hw
  case below =>
    intro i h1 hi
    rw [hcol] at hi
    rw [hwidth, hrow]
    exact h.sent hpassed h1 (by omega)
  case first =>
    have hne : t.x ≠ 0#12 := fun h0 => by simp [h0] at hcol
    rw [if_neg hne, hwidth, hrow]
    exact h.sent_first hpassed

theorem DiffusionTracks.step_rowEnd (h : DiffusionTracks lum s)
    (hpassed : ErrorPassed (errorAt s.width.toNat lum s.x.toNat s.y.toNat) s t) (hend : atRowEnd s)
    (hwidth : t.width = s.width) (hcol : t.x = 0#12) (hrow : t.y.toNat = s.y.toNat + 1) : DiffusionTracks lum t := by
  have hx0 : t.x.toNat = 0 := by rw [hcol]; rfl
  have habove : ((s.y.toNat + 1 : Nat) : Int) - 1 = s.y.toNat := by omega
  refine ⟨?c7, ?c51, ?c1, ?above, ?below, ?first⟩
  case c7 => rw [hpassed.c7, if_pos hend, hx0, errorAt_left (by omega), mul_zero]
  case c51 => rw [hpassed.c51, if_pos hend, hx0, errorAt_left (by omega), errorAt_left (by omega), mul_zero, add_zero]
  case c1 => rw [hpassed.c1, if_pos hend, hx0, errorAt_left (by omega)]
  case above =>
    intro i h1 _ hw
    rw [hwidth] at hw
    rw [hwidth, hrow, habove]
    rcases Nat.lt_or_eq_of_le hw with hlt | rfl
    · exact h.sent hpassed h1 (by omega)
    · have hlast : (s.width.toNat : Int) - 1 = s.x.toNat := by omega
      have hbefore : (s.width.toNat : Int) - 2 = s.x.toNat - 1 := by omega
      rw [hpassed.last hend, h.c1, sentDown, errorAt_right le_rfl, hlast, hbefore, mul_zero, zero_add]
  case below => exact fun i _ hi => absurd (hx0 ▸ hi) (Nat.not_lt_zero i)
  case first =>
    rw [if_pos hcol, hwidth, hrow, habove]
    exact h.sent_first hpassed

theorem DiffusionTracks.pixelStep (h : DiffusionTracks lum s) (hx : s.x.toNat < s.width.toNat)
    (hy : s.y.toNat < s.height.toNat) (hm : s.mode = .diffuse) (hd : s.params.diffusion = .floydSteinberg)
    (hwf : s.lb.wf = true) : DiffusionTracks lum (pixelStep (lum s.y.toNat s.x.toNat) s) := by
  have hpassed := errorPassed_pixelStep (lum s.y.toNat s.x.toNat) hm hd hwf
  rw [h.pixelError_eq hx] at hpassed
  by_cases hend : atRowEnd s
  · have hlast : lastOfRow s = true := lastOfRow_iff.mpr hend
    refine h.step_rowEnd hpassed hend (pixelStep_width _ s) ?_ ?_
    · rw [pixelStep_x, if_pos hlast]
    · rw [pixelStep_y, if_pos hlast, toNat_add_one_of_lt hy]
  · have hlast : ¬ lastOfRow s = true := mt lastOfRow_iff.mp hend
    refine h.step_midRow hpassed hend (pixelStep_width _ s) ?_ ?_
    · rw [pixelStep_x, if_neg hlast, toNat_add_one_of_lt hx]
    · rw [pixelStep_y, if_neg hlast]

end Tracks

/-- Settles O35: the invariant gives the place inside the frame and the canonical buffer, and from there the pixel's step
keeps the registers on the picture's errors. -/
theorem diffusionTracksThePicture : Obligations.DiffusionTracksThePicture := by
  intro lum
  constructor
  · intro s t hp hg ht
    obtain rfl : beginFrame s = t := Host.Outcome.next.inj ((exec_start_ready hp hg).symm.trans ht)
    exact diffusionTracks_beginFrame lum s
  · intro s t hinv hp hm hd h ht
    have f := hinv.running hp
    obtain rfl := exec_pix_run_eq hp ht
    refine ⟨?_, fun _ => h.pixelStep f.x_lt f.y_lt hm hd hinv.canonical⟩
    rw [pixelStep_pixels, h.quantize_eq f.x_lt hm hd]

end Sys2Proof.Machine
end

section
/-! A whole frame in MODE 1 under the decided algorithm (43_error_diffusion.md R142). -/

namespace Sys2Proof.Machine

section RasterPlace
variable {s : State}

theorem rasterIndex_div (hx : s.x.toNat < s.width.toNat) : rasterIndex s / s.width.toNat = s.y.toNat := by
  rw [rasterIndex, Nat.mul_comm, Nat.mul_add_div (by omega), Nat.div_eq_of_lt hx, Nat.add_zero]

theorem rasterIndex_mod (hx : s.x.toNat < s.width.toNat) : rasterIndex s % s.width.toNat = s.x.toNat := by
  rw [rasterIndex, Nat.mul_comm, Nat.mul_add_mod, Nat.mod_eq_of_lt hx]

end RasterPlace

/-- The luminances of `n` pixels of a picture from raster index `k` on. -/
def rasterPixels (w : Nat) (lum : Nat → Nat → Byte) (k n : Nat) : List Byte :=
  (List.range' k n).map fun i => lum (i / w) (i % w)

theorem rasterPixels_succ (w : Nat) (lum : Nat → Nat → Byte) (k n : Nat) :
    rasterPixels w lum k (n + 1) = lum (k / w) (k % w) :: rasterPixels w lum (k + 1) n := rfl

/-- Pixels in raster order are those of the picture they make. -/
theorem rasterPixels_lumAt (pixels : List Byte) (w : Nat) :
    rasterPixels w (lumAt pixels w) 0 pixels.length = pixels := by
  refine List.ext_getElem (by simp [rasterPixels]) fun i _ hi => ?_
  simp [rasterPixels, lumAt, Nat.div_add_mod', hi]

/-- The PIX of a picture emit the bits of the equation, from any place at which the registers follow the picture. -/
theorem recordsOf_diffuse {w n : Nat} {lum : Nat → Nat → Byte} {s : State} (hw : s.width.toNat = w)
    (hm : s.mode = .diffuse) (hd : s.params.diffusion = .floydSteinberg) (hwf : s.lb.wf = true) (hr : OnRaster s)
    (hroom : rasterIndex s + n ≤ frameSize s) (h : DiffusionTracks lum s) :
    recordsOf (rasterPixels w lum (rasterIndex s) n) s =
      (List.range' (rasterIndex s) n).map fun i => pixelRecord (diffusedBit w lum (i / w) (i % w)) s.bg := by
  induction n generalizing s with
  | zero => rfl
  | succ n ih =>
    subst hw
    have hlt : rasterIndex s < frameSize s := by omega
    have hy := y_lt_of_rasterIndex_lt hlt
    have hindex := (pixelStep_rasterIndex (lum s.y.toNat s.x.toNat) hr.x_lt hy).2
    have hrest := ih (s := pixelStep (lum s.y.toNat s.x.toNat) s) (by rw [pixelStep_width])
      ((pixelStep_mode _ s).trans hm) ((congrArg Params.diffusion (pixelStep_params _ s)).trans hd)
      (errorPassed_pixelStep _ hm hd hwf).canonical (hr.pixelStep _ hlt) (by rw [hindex, pixelStep_frameSize]; omega)
      (h.pixelStep hr.x_lt hy hm hd hwf)
    rw [hindex, pixelStep_bg] at hrest
    rw [rasterPixels_succ, List.range'_succ, List.map_cons, recordsOf, rasterIndex_div hr.x_lt, rasterIndex_mod hr.x_lt,
      h.quantize_eq hr.x_lt hm hd, hrest]

/-- Settles O47: START sets the registers on the picture's errors, and the frame's PIX are those of its picture. -/
theorem diffuseFramesFollowTheEquation : Obligations.DiffuseFramesFollowTheEquation := by
  intro s t pixels rest h hm hd ht
  obtain rfl : afterFrame pixels rest s = t := Host.Outcome.next.inj ((runSteps_frame h).symm.trans ht)
  obtain ⟨hr, hindex⟩ := onRaster_beginFrame h.geometry
  have hrecords := recordsOf_diffuse (s := beginFrame s) rfl hm hd zero_wf hr h.room.le
    (diffusionTracks_beginFrame (lumAt pixels s.width.toNat) s)
  rw [hindex, ← List.range_eq_range', beginFrame_width, rasterPixels_lumAt, h.count] at hrecords
  rw [afterFrame_pixels, frameRecords, hrecords]
  rfl

end Sys2Proof.Machine
end

section
/-! Two runs with different thresholds (43_error_diffusion.md R149; 42_quantizer.md R133): no command of a frame writes
THRESH, and outside MODE 0 none reads it. -/

namespace Sys2Proof.Machine

/-- The state with another threshold. -/
def withThresh (v : Byte) (s : State) : State := { s with thresh := v }

section WithThresh
variable (v : Byte) {s : State}

theorem quantize_withThresh (p : Byte) (hm : s.mode ≠ .threshold) :
    quantize p (withThresh v s) = ((quantize p s).1, withThresh v (quantize p s).2) := by
  cases hmode : s.mode with
  | threshold => exact absurd hmode hm
  | ordered => rw [quantize_of_ordered p hmode, quantize_of_ordered p (s := withThresh v s) hmode]; rfl
  | diffuse =>
    cases hd : s.params.diffusion with
    | floydSteinberg =>
      rw [quantize_of_floydSteinberg p hmode hd, quantize_of_floydSteinberg p (s := withThresh v s) hmode hd]
      rfl
    | other k =>
      rw [quantize_of_other p hmode hd, quantize_of_other p (s := withThresh v s) hmode hd]
      rfl

/-- What follows the quantizer reads no threshold in any mode. -/
theorem outputPixel_withThresh (m : Bool) (s : State) :
    outputPixel m (withThresh v s) = withThresh v (outputPixel m s) := by
  rw [outputPixel_eq, outputPixel_eq]
  rfl

theorem pixelStep_withThresh (p : Byte) (hm : s.mode ≠ .threshold) :
    pixelStep p (withThresh v s) = withThresh v (pixelStep p s) := by
  rw [pixelStep, quantize_withThresh v p hm, outputPixel_withThresh]
  rfl

theorem exec_start_withThresh (s : State) : exec .start (withThresh v s) = mapNext (withThresh v) (exec .start s) := by
  cases hp : s.ph with
  | err => rw [exec_start_err hp, exec_start_err (s := withThresh v s) hp]; rfl
  | run => rw [exec_start_run hp, exec_start_run (s := withThresh v s) hp]; rfl
  | idle =>
    by_cases hg : GoodGeometry s
    · rw [exec_start_ready hp hg, exec_start_ready (s := withThresh v s) hp ⟨hg.width_pos, hg.width_le, hg.height_pos⟩]
      rfl
    · have hg' : ¬ GoodGeometry (withThresh v s) := fun h => hg ⟨h.width_pos, h.width_le, h.height_pos⟩
      rw [exec_start_bad hp hg, exec_start_bad (s := withThresh v s) hp hg']
      rfl

theorem exec_pix_withThresh (p : Byte) (hm : s.mode ≠ .threshold) :
    exec (.pix p) (withThresh v s) = mapNext (withThresh v) (exec (.pix p) s) := by
  cases hp : s.ph with
  | err => rw [exec_pix_err p hp, exec_pix_err p (s := withThresh v s) hp]; rfl
  | idle => rw [exec_pix_idle p hp, exec_pix_idle p (s := withThresh v s) hp]; rfl
  | run =>
    rw [exec_pix, exec_pix, inRun_run hp, inRun_run (s := withThresh v s) hp,
      show bufferReached (withThresh v s) = bufferReached s from rfl, pixelStep_withThresh v p hm]
    split <;> rfl

end WithThresh

/-- What the host presents of a frame: START and PIX, in any order and number. -/
def FrameInstr (i : Instr) : Prop := i = .start ∨ ∃ p, i = .pix p

section FrameInstr
variable {i : Instr} {s t : State}

theorem FrameInstr.decode_encode (hi : FrameInstr i) : decode (encode i) = .command i := by
  obtain rfl | ⟨p, rfl⟩ := hi
  · exact decode_encode_start
  · exact decode_encode_pix p

theorem FrameInstr.exec_withThresh (hi : FrameInstr i) (v : Byte) (hm : s.mode ≠ .threshold) :
    exec i (withThresh v s) = mapNext (withThresh v) (exec i s) := by
  obtain rfl | ⟨p, rfl⟩ := hi
  · exact exec_start_withThresh v s
  · exact exec_pix_withThresh v p hm

/-- START and PIX leave the mode as it is, and the input to the step. -/
theorem FrameInstr.exec_frame (hi : FrameInstr i) (h : exec i s = .next t) : t.mode = s.mode ∧ t.input = s.input := by
  obtain rfl | ⟨p, rfl⟩ := hi
  · rcases execStart_next h with ⟨-, rfl⟩ | ⟨-, rfl⟩ | ⟨-, -, rfl⟩ | ⟨-, -, rfl⟩ <;> exact ⟨rfl, rfl⟩
  · rcases execPix_next h with ⟨-, rfl⟩ | ⟨-, rfl⟩ | ⟨-, -, rfl⟩
    · exact ⟨rfl, rfl⟩
    · exact ⟨rfl, rfl⟩
    · exact ⟨pixelStep_mode p s, pixelStep_input p s⟩

end FrameInstr

/-- Two states outside MODE 0 that differ in THRESH only, with nothing but commands of frames to take. -/
structure SameButThresh (v : Byte) (a b : State) : Prop where
  state : b = withThresh v a
  mode : a.mode ≠ .threshold
  input : ∃ is : List Instr, a.input = commandsOf is ∧ ∀ i ∈ is, FrameInstr i

theorem step_of_input_nil {s : State} (hi : s.input = []) : step s = .next s := by
  simp [step, fetch, hi]

theorem outcomesRelated_mapNext {R : State → State → Prop} {f : State → State} {o : StepResult}
    (h : ∀ t, o = .next t → R t (f t)) : outcomesRelated R o (mapNext f o) := by
  cases o with
  | next t => exact h t rfl
  | fault r | refused r => rfl

theorem SameButThresh.step {v : Byte} {a b : State} (h : SameButThresh v a b) :
    outcomesRelated (SameButThresh v) (step a) (step b) := by
  obtain ⟨rfl, hm, is, hinput, his⟩ := h
  cases is with
  | nil =>
    rw [step_of_input_nil hinput, step_of_input_nil (s := withThresh v a) hinput]
    exact ⟨rfl, hm, [], hinput, his⟩
  | cons i is =>
    obtain ⟨hi, hrest⟩ := List.forall_mem_cons.mp his
    rw [step_command hinput hi.decode_encode, step_command (s := withThresh v a) hinput hi.decode_encode]
    change outcomesRelated _ _ (exec i (withThresh v (withInput (commandsOf is) a)))
    rw [hi.exec_withThresh v (s := withInput (commandsOf is) a) hm]
    refine outcomesRelated_mapNext fun t ht => ?_
    obtain ⟨hmode, hin⟩ := hi.exec_frame ht
    exact ⟨rfl, fun h => hm (hmode.symm.trans h), is, hin, hrest⟩

theorem SameButThresh.outcome_eq {v : Byte} {o o' : StepResult} (h : outcomesRelated (SameButThresh v) o o') :
    o' = mapNext (withThresh v) o := by
  cases o <;> cases o'
  case next.next => exact congrArg _ h.state
  case fault.fault => exact congrArg _ (Eq.symm h)
  case refused.refused => exact congrArg _ (Eq.symm h)
  all_goals exact h.elim

/-- Settles O54: the step lemma carried over the run. -/
theorem thresholdIgnoredOutsideThresholdMode : Obligations.ThresholdIgnoredOutsideThresholdMode := by
  intro n s pixels v hm hinput
  have hframe : ∀ i ∈ (.start :: pixels.map .pix : List Instr), FrameInstr i := by
    simp [FrameInstr]
  exact SameButThresh.outcome_eq (runSteps_related (fun _ _ => SameButThresh.step) ⟨rfl, hm, _, hinput, hframe⟩)

end Sys2Proof.Machine
end

section
/-! The packer over one pixel (44_preview_and_packer.md R166, R167): the bits of the byte under construction, and where that
byte goes. -/

namespace Sys2Proof.Machine

/-- The positions of SR that no pixel has reached hold 0 (10_state.md R35 (iii)). -/
theorem InFrame.sr_getLsbD_low {s : State} (f : InFrame s) {j : Nat} (hj : j < 8 - s.bc.toNat) :
    s.sr.getLsbD j = false := by
  have hmod : (s.sr.toNat % 2 ^ (8 - s.bc.toNat)).testBit j = false := by rw [f.sr_low, Nat.zero_testBit]
  rwa [Nat.testBit_mod_two_pow, decide_eq_true hj, Bool.true_and] at hmod

/-- The byte with the bit placed: that bit at position `7 - BC`, SR above it, nothing below. -/
theorem InFrame.place_bits {s : State} (f : InFrame s) (b : Bool) :
    (place b s).getLsbD (7 - s.bc.toNat) = b ∧
      (∀ j, j < 8 → 7 - s.bc.toNat < j → (place b s).getLsbD j = s.sr.getLsbD j) ∧
      (∀ j, j < 7 - s.bc.toNat → (place b s).getLsbD j = false) := by
  refine ⟨?placed, fun j hj habove => ?above, fun j hbelow => ?below⟩
  case placed =>
    have hfree : s.sr.getLsbD (7 - s.bc.toNat) = false := f.sr_getLsbD_low (by omega)
    simp [getLsbD_place b s (show 7 - s.bc.toNat < 8 by omega), hfree]
  case above => simp [getLsbD_place b s hj, habove.ne']
  case below =>
    have hfree : s.sr.getLsbD j = false := f.sr_getLsbD_low (by omega)
    simp [getLsbD_place b s (show j < 8 by omega), hfree, hbelow.ne]

/-- At the end of a byte or of a row one byte leaves, one even where both end, and the packer is then empty; elsewhere the
byte stays and BC counts its pixel. -/
theorem pixelStep_packer (p : Byte) (s : State) :
    if s.bc = 7#3 ∨ s.x.toNat + 1 = s.width.toNat then
      (pixelStep p s).bytes = s.bytes ++ [place (!(quantize p s).1) s] ∧ (pixelStep p s).sr = 0#8 ∧
        (pixelStep p s).bc = 0#3
    else
      (pixelStep p s).bytes = s.bytes ∧ (pixelStep p s).sr = place (!(quantize p s).1) s ∧
        (pixelStep p s).bc.toNat = s.bc.toNat + 1 := by
  rw [pixelStep_bytes, pixelStep_sr, pixelStep_bc]
  split
  next hend =>
    rw [if_pos (flushes_iff.mpr hend), if_pos (flushes_iff.mpr hend), if_pos (flushes_iff.mpr hend)]
    exact ⟨rfl, rfl, rfl⟩
  next hmid =>
    have hstay : ¬flushes s = true := mt flushes_iff.mp hmid
    have hcount : (s.bc + 1#3).toNat = s.bc.toNat + 1 := by
      have hbc : s.bc ≠ 7#3 := fun h => hmid (.inl h)
      bv_omega
    rw [if_neg hstay, if_neg hstay, if_neg hstay, List.append_nil]
    exact ⟨rfl, rfl, hcount⟩

/-- Settles O40: the byte is SR with the inverted bit placed; the invariant makes the positions from `7 - BC` down free, and
the flush alone decides whether the byte leaves or stays. -/
theorem packerPlacesBitsFromTheTop : Obligations.PackerPlacesBitsFromTheTop := by
  intro p s t h hp ht
  obtain rfl : pixelStep p s = t := exec_pix_run_eq hp ht
  obtain ⟨hplaced, habove, hbelow⟩ := (h.running hp).place_bits (!(quantize p s).1)
  exact ⟨pixelRecord (quantize p s).1 s.bg, place (!(quantize p s).1) s, pixelStep_pixels p s, hplaced, habove, hbelow,
    pixelStep_packer p s⟩

end Sys2Proof.Machine
end

section
/-! Two blocks that differ in BG and in the colours of their records (44_preview_and_packer.md R163): no operation but the
emission of a record reads BG, and none reads the records. -/

namespace Sys2Proof.Machine

/-- The state with another background and other records. -/
def withPreview (bg : Bool) (records : List PixelRecord) (s : State) : State := { s with bg := bg, pixels := records }

/-! ### One pixel -/

section WithPreview
variable (bg : Bool) (records : List PixelRecord)

theorem quantize_withPreview (p : Byte) (s : State) :
    quantize p (withPreview bg records s) = ((quantize p s).1, withPreview bg records (quantize p s).2) := by
  cases hm : s.mode with
  | threshold => rw [quantize_of_threshold p hm, quantize_of_threshold p (s := withPreview bg records s) hm]; rfl
  | ordered => rw [quantize_of_ordered p hm, quantize_of_ordered p (s := withPreview bg records s) hm]; rfl
  | diffuse =>
    cases hd : s.params.diffusion with
    | floydSteinberg =>
      rw [quantize_of_floydSteinberg p hm hd, quantize_of_floydSteinberg p (s := withPreview bg records s) hm hd]
      rfl
    | other k =>
      rw [quantize_of_other p hm hd, quantize_of_other p (s := withPreview bg records s) hm hd]
      rfl

/-- BG gives the new record its colour and nothing else. -/
theorem outputPixel_withPreview (m : Bool) (s : State) :
    outputPixel m (withPreview bg records s) =
      withPreview bg (records ++ [pixelRecord m bg]) (outputPixel m s) := by
  rw [outputPixel_eq, outputPixel_eq]
  rfl

theorem pixelStep_withPreview (p : Byte) (s : State) :
    pixelStep p (withPreview bg records s) =
      withPreview bg (records ++ [pixelRecord (quantize p s).1 bg]) (pixelStep p s) := by
  rw [pixelStep, quantize_withPreview, outputPixel_withPreview]
  rfl

end WithPreview

/-! ### What keeps the relation -/

section SameButPreview
variable {a b : State}

theorem SameButPreview.eq_withPreview (h : SameButPreview a b) : b = withPreview b.bg b.pixels a := h.state

theorem SameButPreview.ph_eq (h : SameButPreview a b) : b.ph = a.ph := by rw [h.eq_withPreview]; rfl

theorem SameButPreview.geometryBad_eq (h : SameButPreview a b) : geometryBad b = geometryBad a := by
  rw [h.eq_withPreview]; rfl

theorem SameButPreview.bufferReached_eq (h : SameButPreview a b) : bufferReached b = bufferReached a := by
  rw [h.eq_withPreview]; rfl

/-- An operation that emits no record and whose other results do not depend on the preview keeps the relation, whatever it
makes of BG. -/
theorem SameButPreview.map {f : State → State} (h : SameButPreview a b)
    (hf : ∀ bg records, ∃ bg', f (withPreview bg records a) = withPreview bg' records (f a))
    (hpixels : (f a).pixels = a.pixels) : SameButPreview (f a) (f b) := by
  obtain ⟨bg', hfb⟩ := hf b.bg b.pixels
  rw [← h.eq_withPreview] at hfb
  rw [hfb]
  exact ⟨rfl, h.mono.trans (congrArg _ hpixels.symm)⟩

theorem SameButPreview.raise_both (e : Cause) (h : SameButPreview a b) : SameButPreview (raise e a) (raise e b) :=
  h.map (f := raise e) (fun bg _ => ⟨bg, rfl⟩) rfl

theorem SameButPreview.resetAll_both (h : SameButPreview a b) : SameButPreview (resetAll a) (resetAll b) :=
  h.map (f := resetAll) (fun _ _ => ⟨false, rfl⟩) rfl

theorem SameButPreview.withInput_both (rest : List HostEvent) (h : SameButPreview a b) :
    SameButPreview (withInput rest a) (withInput rest b) :=
  h.map (f := withInput rest) (fun bg _ => ⟨bg, rfl⟩) rfl

theorem SameButPreview.illegalCommand_both (h : SameButPreview a b) :
    SameButPreview (illegalCommand a) (illegalCommand b) := by
  by_cases hp : a.ph = .err
  · rw [illegalCommand_err hp, illegalCommand_err (h.ph_eq.trans hp)]
    exact h
  · rw [illegalCommand_live hp, illegalCommand_live (h.ph_eq ▸ hp)]
    exact h.raise_both .illegalCommand

/-- Both pixels have the same bit, and so have their records. -/
theorem SameButPreview.pixelStep_both (p : Byte) (h : SameButPreview a b) :
    SameButPreview (pixelStep p a) (pixelStep p b) := by
  rw [h.eq_withPreview, pixelStep_withPreview]
  refine ⟨rfl, ?_⟩
  rw [pixelStep_pixels, List.map_append, ← h.mono, ← List.map_append]
  simp [withPreview, pixelRecord]

/-! ### The commands -/

theorem SameButPreview.inIdle_both {act : State → StepResult} (h : SameButPreview a b)
    (hact : outcomesRelated SameButPreview (act a) (act b)) :
    outcomesRelated SameButPreview (inIdle act a) (inIdle act b) := by
  cases hp : a.ph with
  | idle => rwa [inIdle_idle hp, inIdle_idle (h.ph_eq.trans hp)]
  | run => rw [inIdle_run hp, inIdle_run (h.ph_eq.trans hp)]; exact h.raise_both .encodingError
  | err => rw [inIdle_err hp, inIdle_err (h.ph_eq.trans hp)]; exact h

theorem SameButPreview.inRun_both {act : State → StepResult} (h : SameButPreview a b)
    (hact : outcomesRelated SameButPreview (act a) (act b)) :
    outcomesRelated SameButPreview (inRun act a) (inRun act b) := by
  cases hp : a.ph with
  | idle => rw [inRun_idle hp, inRun_idle (h.ph_eq.trans hp)]; exact h.raise_both .encodingError
  | run => rwa [inRun_run hp, inRun_run (h.ph_eq.trans hp)]
  | err => rw [inRun_err hp, inRun_err (h.ph_eq.trans hp)]; exact h

theorem SameButPreview.exec_start_both (h : SameButPreview a b) :
    outcomesRelated SameButPreview (exec .start a) (exec .start b) := by
  rw [exec_start, exec_start]
  refine h.inIdle_both ?_
  rw [h.geometryBad_eq]
  split
  · exact h.raise_both .invalidGeometry
  · exact h.map (f := beginFrame) (fun bg _ => ⟨bg, rfl⟩) rfl

theorem SameButPreview.exec_pix_both (p : Byte) (h : SameButPreview a b) :
    outcomesRelated SameButPreview (exec (.pix p) a) (exec (.pix p) b) := by
  rw [exec_pix, exec_pix]
  refine h.inRun_both ?_
  rw [h.bufferReached_eq]
  split
  · exact h.pixelStep_both p
  · rfl

/-- Every command, SETM included: it writes BG itself, and the same in both blocks. -/
theorem SameButPreview.exec_both {i : Instr} (h : SameButPreview a b) (hwf : i.wellFormed = true) :
    outcomesRelated SameButPreview (exec i a) (exec i b) := by
  cases i with
  | setw w =>
    rw [exec_setw, exec_setw]
    exact h.inIdle_both (h.map (f := fun s => { s with width := w }) (fun bg _ => ⟨bg, rfl⟩) rfl)
  | seth v =>
    rw [exec_seth, exec_seth]
    exact h.inIdle_both (h.map (f := fun s => { s with height := v }) (fun bg _ => ⟨bg, rfl⟩) rfl)
  | sett v =>
    rw [exec_sett, exec_sett]
    exact h.inIdle_both (h.map (f := fun s => { s with thresh := v }) (fun bg _ => ⟨bg, rfl⟩) rfl)
  | setm f v =>
    obtain ⟨m, rfl⟩ := exists_modeCode_eq (bne_iff_ne.mp hwf)
    rw [exec_setm_modeCode, exec_setm_modeCode]
    exact h.inIdle_both (h.map (f := fun s => { s with mode := m, bg := v }) (fun _ _ => ⟨v, rfl⟩) rfl)
  | start => exact h.exec_start_both
  | pix p => exact h.exec_pix_both p
  | rst => exact h.resetAll_both

/-! ### The step -/

theorem step_resetPin {s : State} {rest : List HostEvent} (hi : s.input = .resetPin :: rest) :
    step s = .next (resetAll (withInput rest s)) := by
  simp [step, fetch, hi, withInput]

theorem SameButPreview.step_both (h : SameButPreview a b) : outcomesRelated SameButPreview (step a) (step b) := by
  have hinput : b.input = a.input := by rw [h.eq_withPreview]; rfl
  cases hi : a.input with
  | nil =>
    rw [step_of_input_nil hi, step_of_input_nil (hinput.trans hi)]
    exact h
  | cons e rest =>
    have htaken : SameButPreview (withInput rest a) (withInput rest b) := h.withInput_both rest
    cases e with
    | resetPin =>
      rw [step_resetPin hi, step_resetPin (hinput.trans hi)]
      exact htaken.resetAll_both
    | command w =>
      cases hd : decode w with
      | illegal why =>
        rw [step_illegal hi hd, step_illegal (hinput.trans hi) hd]
        exact htaken.illegalCommand_both
      | command i =>
        rw [step_command hi hd, step_command (hinput.trans hi) hd]
        exact htaken.exec_both (wellFormed_of_decode hd)

end SameButPreview

/-- Settles O53: the step lemma carried over the run. -/
theorem backgroundIsCosmetic : Obligations.BackgroundIsCosmetic := by
  intro n a b h
  exact runSteps_related (fun _ _ => SameButPreview.step_both) h

end Sys2Proof.Machine
end

section
/-! The faults (60_exceptions.md R180 to R193): the condition under which a command raises each, what entering ERR writes,
and what leaves it. -/

namespace Sys2Proof.Machine

/-! ### Which command raises which fault -/

section FaultConditions
variable {i : Instr} {s t : State} {e : Cause}

/-- The three ways a geometry is unusable (60_exceptions.md R181). -/
theorem not_goodGeometry_iff :
    ¬ GoodGeometry s ↔ s.width = 0#12 ∨ s.height = 0#12 ∨ s.params.wMax < s.width.toNat := by
  simp only [goodGeometry_iff, ne_eq, not_and_or, not_not, not_le]

/-- When a command raises a fault (60_exceptions.md R181, R182, R184). Only the term SETM with mode 3 is ill-formed; it
acts as the ILLEGAL word that carries it (log entry 9). -/
def FaultCondition (i : Instr) (s : State) : Cause → Prop
  | .invalidGeometry => i = .start ∧ s.ph = .idle ∧ ¬ GoodGeometry s
  | .encodingError => i.wellFormed = true ∧
      ((s.ph = .run ∧ (isConfiguration i = true ∨ i = .start)) ∨ (s.ph = .idle ∧ ∃ p, i = .pix p))
  | .illegalCommand => i.wellFormed = false ∧ s.ph ≠ .err

theorem exec_ill_formed (hwf : i.wellFormed = false) : exec i s = .next (illegalCommand s) := by
  cases i with
  | setm f bg =>
    obtain rfl : f = 3#2 := by simpa [Instr.wellFormed] using hwf
    rfl
  | setw | seth | sett | start | pix | rst => cases hwf

theorem exec_of_faultCondition (h : FaultCondition i s e) : exec i s = .next (raise e s) := by
  cases e with
  | invalidGeometry =>
    obtain ⟨rfl, hp, hbad⟩ := h
    exact exec_start_bad hp hbad
  | encodingError =>
    obtain ⟨hwf, ⟨hp, hkind⟩ | ⟨hp, p, rfl⟩⟩ := h
    · exact exec_idleOnly_run hwf hkind hp
    · exact exec_pix_idle p hp
  | illegalCommand =>
    obtain ⟨hwf, hp⟩ := h
    rw [exec_ill_formed hwf, illegalCommand_live hp]

/-- Everything a command can do to ERRCODE: RST clears it, a command whose fault condition holds sets it, any other keeps
it. -/
theorem exec_errcode (h : exec i s = .next t) :
    t.errcode = none ∨ t.errcode = s.errcode ∨ ∃ e, FaultCondition i s e ∧ t.errcode = some e := by
  cases hwf : i.wellFormed with
  | false =>
    obtain rfl : illegalCommand s = t := Host.Outcome.next.inj ((exec_ill_formed hwf).symm.trans h)
    rcases illegalCommand_cases s with ⟨-, heq⟩ | ⟨hp, heq⟩ <;> rw [heq]
    · exact .inr (.inl rfl)
    · exact .inr (.inr ⟨.illegalCommand, ⟨hwf, hp⟩, rfl⟩)
  | true =>
    rcases instr_kinds i with hc | rfl | ⟨p, rfl⟩ | rfl
    · cases hp : s.ph with
      | idle =>
        obtain ⟨w, v, thr, m, bg, hexec⟩ := exec_configuration_idle hc hwf hp
        cases hexec.symm.trans h
        exact .inr (.inl rfl)
      | run =>
        cases (exec_configuration_run hc hwf hp).symm.trans h
        exact .inr (.inr ⟨.encodingError, ⟨hwf, .inl ⟨hp, .inl hc⟩⟩, rfl⟩)
      | err =>
        cases (exec_configuration_err hc hwf hp).symm.trans h
        exact .inr (.inl rfl)
    · rcases execStart_next h with ⟨-, rfl⟩ | ⟨hp, rfl⟩ | ⟨hp, hbad, rfl⟩ | ⟨-, -, rfl⟩
      · exact .inr (.inl rfl)
      · exact .inr (.inr ⟨.encodingError, ⟨hwf, .inl ⟨hp, .inr rfl⟩⟩, rfl⟩)
      · exact .inr (.inr ⟨.invalidGeometry, ⟨rfl, hp, geometryBad_iff_not_good.mp hbad⟩, rfl⟩)
      · exact .inr (.inl (beginFrame_errcode s))
    · rcases execPix_next h with ⟨-, rfl⟩ | ⟨hp, rfl⟩ | ⟨-, -, rfl⟩
      · exact .inr (.inl rfl)
      · exact .inr (.inr ⟨.encodingError, ⟨hwf, .inr ⟨hp, p, rfl⟩⟩, rfl⟩)
      · exact .inr (.inl (pixelStep_errcode p s))
    · cases h
      exact .inl (resetAll_errcode s)

theorem faultCondition_of_new_errcode (h : exec i s = .next t) (ht : t.errcode = some e) (hs : s.errcode ≠ some e) :
    FaultCondition i s e := by
  rcases exec_errcode h with hclear | hkept | ⟨e', hfault, hset⟩
  · cases hclear.symm.trans ht
  · exact absurd (hkept.symm.trans ht) hs
  · cases hset.symm.trans ht
    exact hfault

end FaultConditions

/-- Settles O19: the fault condition of InvalidGeometry, both ways. -/
theorem invalidGeometryOnlyByStart : Obligations.InvalidGeometryOnlyByStart := by
  refine ⟨fun s hp hbad => ?raised, fun i s t h ht hs => ?only⟩
  case raised => exact exec_of_faultCondition (e := .invalidGeometry) ⟨rfl, hp, not_goodGeometry_iff.mpr hbad⟩
  case only =>
    obtain ⟨hi, hp, hbad⟩ := faultCondition_of_new_errcode h ht hs
    exact ⟨hi, hp, not_goodGeometry_iff.mp hbad⟩

/-- Settles O26: the fault condition of EncodingError, both ways. -/
theorem encodingErrorExactlyOutOfPhase : Obligations.EncodingErrorExactlyOutOfPhase := by
  refine ⟨fun i s hwf hphase => ?raised, fun i s t h ht hs => ?only⟩
  case raised => exact exec_of_faultCondition (e := .encodingError) ⟨hwf, hphase⟩
  case only =>
    obtain ⟨-, hphase⟩ := faultCondition_of_new_errcode h ht hs
    exact hphase

/-! ### Into ERR (60_exceptions.md R186) -/

section EnterErr
variable {i : Instr} {s t : State}

/-- Of all that a command can answer, only `raise` leads from another phase to ERR. -/
theorem exec_enters_err (h : exec i s = .next t) (hs : s.ph ≠ .err) (ht : t.ph = .err) : ∃ e, t = raise e s := by
  rcases exec_next h with ⟨-, rfl⟩ | ⟨-, herr, -⟩ | ⟨-, -, hraise⟩ | ⟨hidle, hwrite⟩ | ⟨hrun, -, p, -, rfl⟩
  · cases ht
  · exact absurd herr hs
  · exact hraise
  · rcases hwrite with ⟨_, -, rfl⟩ | ⟨_, -, rfl⟩ | ⟨_, -, rfl⟩ | ⟨_, _, _, -, -, rfl⟩ | ⟨-, -, rfl⟩
    · exact absurd ht hs
    · exact absurd ht hs
    · exact absurd ht hs
    · exact absurd ht hs
    · cases ht
  · rw [pixelStep_ph] at ht
    split at ht
    · cases ht
    · exact absurd ht hs

theorem step_enters_err (h : step s = .next t) (hs : s.ph ≠ .err) (ht : t.ph = .err) :
    ∃ e, t = raise e (withInput s.input.tail s) := by
  rcases step_next h with ⟨-, rfl⟩ | ⟨rest, -, rfl⟩ | ⟨w, rest, why, hi, -, rfl⟩ | ⟨w, rest, i, hi, -, hexec⟩
  · exact absurd ht hs
  · cases ht
  · rw [hi]
    exact ⟨.illegalCommand, illegalCommand_live (s := withInput rest s) hs⟩
  · rw [hi]
    exact exec_enters_err (s := withInput rest s) hexec hs ht

end EnterErr

/-- Settles O27: the fault is taken on the state before the step with its event taken. -/
theorem faultEntryWritesTwoRegisters : Obligations.FaultEntryWritesTwoRegisters :=
  fun _ _ h hs ht => step_enters_err h hs ht

/-! ### Out of ERR (60_exceptions.md R191, R192) -/

theorem decode_eq_rst_iff {w : Word} : decode w = .command .rst ↔ w = 0xF000#16 := by
  constructor
  · intro hd
    obtain ⟨hop, himm⟩ := decode_eq_command_iff.mp hd
    rw [← word_eq_opcode_imm12 w, hop, himm]
    rfl
  · rintro rfl
    decide

/-- Settles O28: 0xF000 is the only word of RST, and ERR ignores every other word. -/
theorem errIgnoresAllButRst : Obligations.ErrIgnoresAllButRst :=
  fun _ _ _ hp hi hw => step_err hi (mt decode_eq_rst_iff.mp hw) hp

/-- Settles O29: by the event taken; with none, or with a word other than 0xF000, the phase stays ERR. -/
theorem onlyResetLeavesErr : Obligations.OnlyResetLeavesErr := by
  intro s t herr h hleft
  cases hi : s.input with
  | nil =>
    cases (step_of_input_nil hi).symm.trans h
    exact absurd herr hleft
  | cons event rest =>
    cases event with
    | resetPin =>
      cases (step_resetPin hi).symm.trans h
      exact ⟨⟨rest, .inl rfl⟩, rfl⟩
    | command w =>
      by_cases hw : w = 0xF000#16
      · subst hw
        cases (step_command hi (decode_eq_rst_iff.mpr rfl)).symm.trans h
        exact ⟨⟨rest, .inr rfl⟩, rfl⟩
      · cases (errIgnoresAllButRst s w rest herr hi hw).symm.trans h
        exact absurd herr hleft

end Sys2Proof.Machine
end

section
/-! RST and the RESET pin (70_reset_and_hazards.md R210, R211): both lead to `resetAll` of the state with the event taken. -/

namespace Sys2Proof.Machine

/-- RST looks at no phase: it is done in IDLE, in RUN and in ERR (41_frame_control.md R125). -/
theorem exec_rst (s : State) : exec .rst s = .next (resetAll s) := rfl

/-- What a reset keeps of the state before it: the parameters, the input and what has been emitted. Every register is the
one of the state after reset; LB and the reset counter are the reset's own (10_state.md R20, R33). -/
theorem resetAll_eq_reset_with (s : State) :
    resetAll s = { State.reset with
      params := s.params, input := s.input, bytes := s.bytes, pixels := s.pixels, lb := (resetAll s).lb,
      resets := (resetAll s).resets } := rfl

section TwoWays
variable {s : State} {rest : List HostEvent}

theorem step_resetPin_eq_exec_rst (hi : s.input = .resetPin :: rest) : step s = exec .rst (withInput rest s) :=
  (step_resetPin hi).trans (exec_rst _).symm

theorem step_rstWord_eq_exec_rst (hi : s.input = .command 0xF000#16 :: rest) : step s = exec .rst (withInput rest s) :=
  step_command hi (decode_eq_rst_iff.mpr rfl)

end TwoWays

/-- Settles O20: RST is `resetAll`, whose registers are the reset state's; the pin and the word both take their event and
then do what RST does. -/
theorem rstEqualsResetPin : Obligations.RstEqualsResetPin := by
  intro s rest
  refine ⟨⟨resetAll s, exec_rst s, resetAll_eq_reset_with s, ?width, ?height, ?thresh, ?mode, ?bg⟩, ?pin, ?word⟩
  case width => exact resetAll_width s
  case height => exact resetAll_height s
  case thresh => exact resetAll_thresh s
  case mode => exact resetAll_mode s
  case bg => exact resetAll_bg s
  case pin => exact step_resetPin_eq_exec_rst (s := { s with input := .resetPin :: rest }) rfl
  case word => exact step_rstWord_eq_exec_rst (s := { s with input := .command 0xF000#16 :: rest }) rfl

end Sys2Proof.Machine
end

section
/-! The encoder and the decoder are inverse to each other (30_encoding.md R80 to R82), and the operands as numbers (R84). -/

namespace Sys2Proof

/-- Format M, all eight words of it: the fields of SETM's word, the reserved mode included (30_encoding.md R80). -/
theorem fields_encode_setm : ∀ (mode : BitVec 2) (bg : Bool),
    opcodeOf (encode (.setm mode bg)) = 0x4#4 ∧ zeros11to3 (encode (.setm mode bg)) = 0#9 ∧
      modeField (encode (.setm mode bg)) = mode ∧ bgField (encode (.setm mode bg)) = bg := by decide

/-- The word of a well-formed command carries that command's fields (30_encoding.md R80, R81). -/
theorem encode_carries {i : Instr} (hwf : i.wellFormed = true) : i.CarriedBy (encode i) := by
  cases i with
  | setw v => exact ⟨opcodeOf_append 0x1#4 v, imm12_append 0x1#4 v⟩
  | seth v => exact ⟨opcodeOf_append 0x2#4 v, imm12_append 0x2#4 v⟩
  | sett v => exact ⟨opcodeOf_formatB 0x3#4 0#4 v, zeros11to8_formatB 0x3#4 0#4 v, imm8_formatB 0x3#4 0#4 v⟩
  | setm mode bg =>
    obtain ⟨hop, hzero, hmode, hbg⟩ := fields_encode_setm mode bg
    exact ⟨hop, hzero, hmode.symm ▸ bne_iff_ne.mp hwf, hmode, hbg⟩
  | start => exact ⟨opcodeOf_append 0x5#4 0#12, imm12_append 0x5#4 0#12⟩
  | pix v => exact ⟨opcodeOf_formatB 0x6#4 0#4 v, zeros11to8_formatB 0x6#4 0#4 v, imm8_formatB 0x6#4 0#4 v⟩
  | rst => exact ⟨opcodeOf_append 0xF#4 0#12, imm12_append 0xF#4 0#12⟩

/-- A word that carries a command's fields is that command's word: the fields are all there is of a word. -/
theorem encode_of_carriedBy {w : Word} {i : Instr} (h : i.CarriedBy w) : encode i = w := by
  cases i with
  | setw v =>
    obtain ⟨hop, rfl⟩ := h
    rw [encode, ← hop, word_eq_opcode_imm12]
  | seth v =>
    obtain ⟨hop, rfl⟩ := h
    rw [encode, ← hop, word_eq_opcode_imm12]
  | sett v =>
    obtain ⟨hop, hzero, rfl⟩ := h
    rw [encode, ← hop, ← hzero, word_eq_formatB]
  | setm mode bg =>
    obtain ⟨hop, hzero, -, rfl, rfl⟩ := h
    rw [encode, ← hop, ← hzero, word_eq_formatM]
  | start =>
    obtain ⟨hop, hzero⟩ := h
    rw [encode, ← hop, ← hzero, word_eq_opcode_imm12]
  | pix v =>
    obtain ⟨hop, hzero, rfl⟩ := h
    rw [encode, ← hop, ← hzero, word_eq_formatB]
  | rst =>
    obtain ⟨hop, hzero⟩ := h
    rw [encode, ← hop, ← hzero, word_eq_opcode_imm12]

/-- Settles O1: the decoder answers the command whose fields the word carries. -/
theorem decodeInvertsEncode : Obligations.DecodeInvertsEncode :=
  fun _ hwf => decode_eq_command_iff.mpr (encode_carries hwf)

/-- Settles O2: a decoded word carries the fields of its command. -/
theorem decodedWordsAreEncodings : Obligations.DecodedWordsAreEncodings :=
  fun _ _ hd => ⟨Machine.wellFormed_of_decode hd, encode_of_carriedBy (decode_eq_command_iff.mp hd)⟩

/-! ### Operands (30_encoding.md R84) -/

theorem imm8_toNat (w : Word) : (imm8 w).toNat = w.toNat % 256 := BitVec.extractLsb'_toNat 0 8 w

theorem bgField_iff {w : Word} : bgField w = true ↔ w.toNat / 4 % 2 = 1 := by
  rw [bgField, BitVec.getLsbD, Nat.testBit_eq_decide_div_mod_eq, decide_eq_true_eq]

/-- Settles O5: each operand is a field of the decoded word, and the field as a number is the word's low bits. -/
theorem operandsAreLowBits : Obligations.OperandsAreLowBits := by
  refine ⟨fun w v hd => ?setw, fun w v hd => ?seth, fun w v hd => ?sett, fun w v hd => ?pix, fun w mode bg hd => ?setm⟩
  case setw =>
    obtain ⟨-, rfl⟩ := decode_eq_command_iff.mp hd
    exact imm12_toNat w
  case seth =>
    obtain ⟨-, rfl⟩ := decode_eq_command_iff.mp hd
    exact imm12_toNat w
  case sett =>
    obtain ⟨-, -, rfl⟩ := decode_eq_command_iff.mp hd
    exact imm8_toNat w
  case pix =>
    obtain ⟨-, -, rfl⟩ := decode_eq_command_iff.mp hd
    exact imm8_toNat w
  case setm =>
    obtain ⟨-, -, -, rfl, rfl⟩ := decode_eq_command_iff.mp hd
    exact ⟨modeField_toNat w, bgField_iff⟩

/-- Settles O6: seven words are the encodings of their commands, the other three are evaluated. -/
theorem sampleWordsDecode : Obligations.SampleWordsDecode :=
  ⟨decodeInvertsEncode (.setw 128#12) rfl, decodeInvertsEncode (.seth 64#12) rfl, decodeInvertsEncode (.sett 100#8) rfl,
    decodeInvertsEncode (.setm 1#2 true) rfl, decodeInvertsEncode .start rfl, decodeInvertsEncode (.pix 255#8) rfl,
    decodeInvertsEncode .rst rfl, by decide, by decide, by decide⟩

end Sys2Proof
end

section
/-! The invariant of the reachable states (10_state.md R35): each kind of step keeps it. A PIX writes LB inside the buffer
only, moves the place on inside the frame, and leaves what a row and a frame have to end with. -/

namespace Sys2Proof.Machine

/-! ### Writes inside the line buffer (20_memory.md R52) -/

/-- `lb'` comes from `lb` by writes at indices up to `n`: the filling and the canonical form stay, and no index above `n`
is newly listed. -/
structure WrittenUpTo (n : Nat) (lb lb' : LineBuffer) : Prop where
  fill : lb'.fill = lb.fill
  canonical : lb.wf = true → lb'.wf = true
  indices : ∀ c ∈ lb'.cells, c.1 ≤ n ∨ c ∈ lb.cells

section WrittenUpTo
variable {n : Nat} {lb lb' lb'' : LineBuffer} {s : State}

theorem WrittenUpTo.refl (n : Nat) (lb : LineBuffer) : WrittenUpTo n lb lb := ⟨rfl, id, fun _ => .inr⟩

theorem WrittenUpTo.trans (h : WrittenUpTo n lb lb') (h' : WrittenUpTo n lb' lb'') : WrittenUpTo n lb lb'' :=
  ⟨h'.fill.trans h.fill, h'.canonical ∘ h.canonical, fun c hc => (h'.indices c hc).elim .inl (h.indices c)⟩

theorem writtenUpTo_write {i : Nat} (hi : i ≤ n) (lb : LineBuffer) (v : Entry) : WrittenUpTo n lb (lb.write i v) :=
  ⟨write_fill lb i v, fun h => write_wf h i v, fun _ hc => (mem_write hc).imp_left (fun h => h.trans_le hi)⟩

theorem writtenUpTo_writeAll (n : Nat) (lb : LineBuffer) (ws : List (Nat × Entry)) :
    WrittenUpTo n lb (lb.writeAll n ws) :=
  ⟨writeAll_fill lb n ws, fun h => writeAll_wf h n ws, fun _ hc => mem_writeAll hc⟩

theorem quantize_writtenUpTo (p : Byte) (hx : s.x.toNat ≤ s.params.wMax) :
    WrittenUpTo s.params.wMax s.lb (quantize p s).2.lb := by
  cases hm : s.mode with
  | threshold => rw [quantize_of_threshold p hm]; exact .refl _ _
  | ordered => rw [quantize_of_ordered p hm]; exact .refl _ _
  | diffuse =>
    cases hd : s.params.diffusion with
    | floydSteinberg => rw [quantize_of_floydSteinberg p hm hd]; exact writtenUpTo_write hx _ _
    | other k => rw [quantize_of_other p hm hd]; exact writtenUpTo_writeAll _ _ _

theorem endOfRowBuffer_writtenUpTo (hw : s.width.toNat ≤ s.params.wMax) :
    WrittenUpTo s.params.wMax s.lb (endOfRowBuffer s) := by
  unfold endOfRowBuffer
  split
  · exact writtenUpTo_write hw _ _
  · exact .refl _ _

theorem pixelStep_writtenUpTo (p : Byte) (hx : s.x.toNat < s.width.toNat) (hw : s.width.toNat ≤ s.params.wMax) :
    WrittenUpTo s.params.wMax s.lb (pixelStep p s).lb := by
  have hquantize := quantize_writtenUpTo p (hx.le.trans hw)
  rw [pixelStep_lb]
  split
  · have hend := endOfRowBuffer_writtenUpTo (s := (quantize p s).2) (by simpa using hw)
    rw [quantize_params] at hend
    exact hquantize.trans hend
  · exact hquantize

end WrittenUpTo

/-! ### One pixel of a frame (10_state.md R35 (iii) to (v)) -/

/-- A number whose low bits are 0 is a multiple of their weight. -/
theorem toNat_mod_two_pow_eq_zero {n k : Nat} {v : BitVec n} (h : ∀ j < k, v.getLsbD j = false) :
    v.toNat % 2 ^ k = 0 := by
  refine Nat.eq_of_testBit_eq fun j => ?_
  rw [Nat.testBit_mod_two_pow, Nat.zero_testBit]
  by_cases hj : j < k
  · exact (congrArg _ (h j hj)).trans (Bool.and_false _)
  · simp [hj]

section InFrame
variable {s : State} (p : Byte)

theorem pixelStep_carriesZero_rowEnd (hlast : lastOfRow s = true) : carriesZero (pixelStep p s) :=
  ⟨by rw [pixelStep_c7, if_pos hlast], by rw [pixelStep_c51, if_pos hlast], by rw [pixelStep_c1, if_pos hlast]⟩

/-- Where the frame goes on, the next place is inside it and DONE is still 0. -/
theorem InFrame.pixelStep_place (f : InFrame s) (hp : s.ph = .run) (hrun : (pixelStep p s).ph = .run) :
    (pixelStep p s).x.toNat < s.width.toNat ∧ (pixelStep p s).y.toNat < s.height.toNat ∧ (pixelStep p s).done = false := by
  have hwidth := f.x_lt
  have hheight := f.y_lt
  have hcol := (pixelStep_rasterIndex p f.x_lt f.y_lt).1
  by_cases hmid : s.x.toNat < s.width.toNat - 1
  · obtain ⟨-, -, hy, hdone, -⟩ := f.pixelStep_midRow p hp hmid
    exact ⟨hcol, hy ▸ hheight, hdone⟩
  · by_cases hmore : s.y.toNat < s.height.toNat - 1
    · obtain ⟨-, -, hy, hdone, -⟩ := f.pixelStep_rowEnd p hp (by omega) hmore
      exact ⟨hcol, by omega, hdone⟩
    · obtain ⟨hidle, -⟩ := f.pixelStep_frameEnd p (by omega) (by omega)
      rw [hrun] at hidle
      cases hidle

/-- BC counts the pixels in SR, and the positions below them are free (10_state.md R31). -/
theorem InFrame.pixelStep_sr_bc (f : InFrame s) :
    (pixelStep p s).bc.toNat = (pixelStep p s).x.toNat % 8 ∧
      (pixelStep p s).sr.toNat % 2 ^ (8 - (pixelStep p s).bc.toNat) = 0 := by
  have hbc := f.bc_eq
  have hpacker := pixelStep_packer p s
  split at hpacker
  next hend =>
    obtain ⟨-, hsr, hempty⟩ := hpacker
    rw [hsr, hempty, pixelStep_x]
    refine ⟨?_, rfl⟩
    split
    next => rfl
    next hmid =>
      have hfull : s.bc.toNat = 7 := congrArg BitVec.toNat (hend.resolve_right (mt lastOfRow_iff.mpr hmid))
      rw [toNat_add_one_of_lt f.x_lt, BitVec.toNat_zero]
      omega
  next hmid =>
    obtain ⟨-, hsr, hcount⟩ := hpacker
    have hlast : ¬lastOfRow s = true := fun h => hmid (.inr (lastOfRow_iff.mp h))
    have hbound := (pixelStep p s).bc.isLt
    refine ⟨?_, toNat_mod_two_pow_eq_zero fun j hj => ?_⟩
    · rw [hcount, pixelStep_x, if_neg hlast, toNat_add_one_of_lt f.x_lt]
      omega
    · rw [hsr]
      exact (f.place_bits _).2.2 j (by omega)

/-- Outside MODE 1 nothing reaches the carries or LB (10_state.md R35 (iv)). -/
theorem InFrame.pixelStep_undiffused (f : InFrame s) (hm : s.mode ≠ .diffuse) :
    carriesZero (pixelStep p s) ∧ ∀ i, (pixelStep p s).lb.read i = 0#12 := by
  obtain ⟨⟨hc7, hc51, hc1⟩, hlb⟩ := f.undiffused hm
  have hbuffer : (pixelStep p s).lb = s.lb := by
    rw [pixelStep_lb, quantize_undiffused hm, endOfRowBuffer_undiffused hm, ite_self]
  refine ⟨⟨?_, ?_, ?_⟩, fun i => hbuffer ▸ hlb i⟩
  · rw [pixelStep_c7, quantize_undiffused hm, hc7, ite_self]
  · rw [pixelStep_c51, quantize_undiffused hm, hc51, ite_self]
  · rw [pixelStep_c1, quantize_undiffused hm, hc1, ite_self]

theorem InFrame.pixelStep (f : InFrame s) (hp : s.ph = .run) (hrun : (pixelStep p s).ph = .run) :
    InFrame (pixelStep p s) := by
  obtain ⟨hx, hy, hdone⟩ := f.pixelStep_place p hp hrun
  obtain ⟨hbc, hsr⟩ := f.pixelStep_sr_bc p
  refine ⟨⟨?width_pos, ?width_le, ?height_pos⟩, ?x_lt, ?y_lt, hdone, hbc, hsr, fun hstart => ?row_start, ?buffer,
    fun hm => ?undiffused⟩
  case width_pos => rw [pixelStep_width]; exact f.geometry.width_pos
  case width_le => rw [pixelStep_width, pixelStep_params]; exact f.geometry.width_le
  case height_pos => rw [pixelStep_height]; exact f.geometry.height_pos
  case x_lt => rwa [pixelStep_width]
  case y_lt => rwa [pixelStep_height]
  case row_start =>
    refine pixelStep_carriesZero_rowEnd p ?_
    by_contra hmid
    rw [pixelStep_x, if_neg hmid] at hstart
    have hcol := toNat_add_one_of_lt f.x_lt
    rw [hstart] at hcol
    cases hcol
  case buffer => exact (pixelStep_writtenUpTo p f.x_lt f.geometry.width_le).fill.trans f.buffer
  case undiffused => exact f.pixelStep_undiffused p (pixelStep_mode p s ▸ hm)

/-- Only the PIX of the last pixel leaves RUN (41_frame_control.md R124). -/
theorem atFrameEnd_of_pixelStep_idle (hp : s.ph = .run) (hidle : (pixelStep p s).ph = .idle) : atFrameEnd s := by
  rw [pixelStep_ph] at hidle
  split at hidle
  next hframe =>
    obtain ⟨hlast, hbottom⟩ := (Bool.and_eq_true _ _).mp hframe
    exact ⟨lastOfRow_iff.mp hlast, lastRow_iff.mp hbottom⟩
  next => cases hp.symm.trans hidle

theorem afterFrame_pixelStep (hp : s.ph = .run) (hidle : (pixelStep p s).ph = .idle) : AfterFrame (pixelStep p s) := by
  have hlast : lastOfRow s = true := lastOfRow_iff.mpr (atFrameEnd_of_pixelStep_idle p hp hidle).1
  have hflush : flushes s = true := flushes_iff.mpr (.inr (lastOfRow_iff.mp hlast))
  exact ⟨by rw [pixelStep_x, if_pos hlast], by rw [pixelStep_sr, if_pos hflush], by rw [pixelStep_bc, if_pos hflush],
    pixelStep_carriesZero_rowEnd p hlast⟩

end InFrame

/-! ### Every kind of step -/

section Inv
variable {s t : State}

/-- What is left to take is no part of the invariant. -/
theorem Inv.withInput (h : Inv s) (rest : List HostEvent) : Inv (withInput rest s) where
  params := h.params
  canonical := h.canonical
  indices := h.indices
  errcode := h.errcode
  running hp :=
    have f := h.running hp
    ⟨f.geometry.withInput rest, f.x_lt, f.y_lt, f.not_done, f.bc_eq, f.sr_low, f.row_start, f.buffer, f.undiffused⟩
  finished hp hdone :=
    have a := h.finished hp hdone
    ⟨a.x_eq, a.sr_eq, a.bc_eq, a.carries⟩

theorem Inv.raise (h : Inv s) (e : Cause) : Inv (raise e s) where
  params := h.params
  canonical := h.canonical
  indices := h.indices
  errcode := by simp
  running hp := by cases hp
  finished hp := by cases hp

theorem Inv.illegalCommand (h : Inv s) : Inv (illegalCommand s) := by
  rcases illegalCommand_cases s with ⟨-, heq⟩ | ⟨-, heq⟩
  · rwa [heq]
  · rw [heq]
    exact h.raise .illegalCommand

theorem Inv.resetAll (h : Inv s) : Inv (resetAll s) where
  params := h.params
  canonical := rfl
  indices := by simp [LineBuffer.unspecified]
  errcode := by simp
  running hp := by cases hp
  finished _ hdone := by cases hdone

/-- In IDLE the configuration is no part of the invariant. -/
theorem Inv.configure (h : Inv s) (hp : s.ph = .idle) (w v : Dim) (thr : Byte) (m : Mode) (bg : Bool) :
    Inv { s with width := w, height := v, thresh := thr, mode := m, bg := bg } where
  params := h.params
  canonical := h.canonical
  indices := h.indices
  errcode := h.errcode
  running hrun := by cases hp.symm.trans hrun
  finished hidle hdone :=
    have a := h.finished hidle hdone
    ⟨a.x_eq, a.sr_eq, a.bc_eq, a.carries⟩

theorem inFrame_beginFrame (hg : GoodGeometry s) : InFrame (beginFrame s) where
  geometry := ⟨hg.width_pos, hg.width_le, hg.height_pos⟩
  x_lt := hg.width_pos
  y_lt := hg.height_pos
  not_done := rfl
  bc_eq := rfl
  sr_low := rfl
  row_start _ := ⟨rfl, rfl, rfl⟩
  buffer := rfl
  undiffused _ := ⟨⟨rfl, rfl, rfl⟩, read_zero⟩

theorem Inv.beginFrame (h : Inv s) (hp : s.ph = .idle) (hg : GoodGeometry s) : Inv (beginFrame s) where
  params := h.params
  canonical := rfl
  indices := by simp [LineBuffer.zero]
  errcode := by simp [h.errcode_none (by simp [hp])]
  running _ := inFrame_beginFrame hg
  finished hidle := by cases hidle

theorem Inv.pixelStep (h : Inv s) (hp : s.ph = .run) (p : Byte) : Inv (pixelStep p s) := by
  have f := h.running hp
  have hwrites := pixelStep_writtenUpTo p f.x_lt f.geometry.width_le
  refine ⟨?params, hwrites.canonical h.canonical, ?indices, ?errcode, f.pixelStep p hp,
    fun hidle _ => afterFrame_pixelStep p hp hidle⟩
  case params => rw [pixelStep_params]; exact h.params
  case indices =>
    intro c hc
    rw [pixelStep_params]
    exact (hwrites.indices c hc).elim id (h.indices c)
  case errcode =>
    have hcode : s.errcode = none := h.errcode_none (by simp [hp])
    have hlive : (Machine.pixelStep p s).ph ≠ .err := by
      rw [pixelStep_ph]
      split
      · simp
      · simp [hp]
    simp [hcode, hlive]

theorem Inv.exec {i : Instr} (h : Inv s) (ht : exec i s = .next t) : Inv t := by
  rcases exec_next ht with ⟨-, rfl⟩ | ⟨-, -, rfl⟩ | ⟨-, -, e, rfl⟩ | ⟨hp, hidle⟩ | ⟨hp, -, p, -, rfl⟩
  · exact h.resetAll
  · exact h
  · exact h.raise e
  · rcases hidle with ⟨w, -, rfl⟩ | ⟨v, -, rfl⟩ | ⟨v, -, rfl⟩ | ⟨_, bg, m, -, -, rfl⟩ | ⟨-, hok, rfl⟩
    · exact h.configure hp w s.height s.thresh s.mode s.bg
    · exact h.configure hp s.width v s.thresh s.mode s.bg
    · exact h.configure hp s.width s.height v s.mode s.bg
    · exact h.configure hp s.width s.height s.thresh m bg
    · have hg : GoodGeometry s := by
        by_contra hbad
        simp [geometryBad_iff_not_good.mpr hbad] at hok
      exact h.beginFrame hp hg
  · exact h.pixelStep hp p

theorem Inv.step (h : Inv s) (ht : step s = .next t) : Inv t := by
  rcases step_next ht with ⟨-, rfl⟩ | ⟨rest, -, rfl⟩ | ⟨w, rest, why, -, -, rfl⟩ | ⟨w, rest, i, -, -, hexec⟩
  · exact h
  · exact (h.withInput rest).resetAll
  · exact (h.withInput rest).illegalCommand
  · exact (h.withInput rest).exec hexec

end Inv

/-- Settles O31: by what the step can answer, kind by kind. -/
theorem everyStepKeepsInvariant : Obligations.EveryStepKeepsInvariant := fun _ _ h ht => h.step ht

/-- Settles O30: no phase but IDLE, no frame completed, and nothing listed in LB. -/
theorem invariantAtReset : Obligations.InvariantAtReset where
  params := (by decide : defaultParams.wf = true)
  canonical := rfl
  indices := by simp [State.reset]
  errcode := by simp [State.reset]
  running hp := by cases hp
  finished _ hdone := by cases hdone

/-! ### No step stops (20_memory.md R52) -/

section Completes
variable {s : State} {act : State → StepResult}

theorem inIdle_completes (h : ∃ t, act s = .next t) : ∃ t, inIdle act s = .next t := by
  cases hp : s.ph with
  | idle => rwa [inIdle_idle hp]
  | run => exact ⟨_, inIdle_run hp⟩
  | err => exact ⟨_, inIdle_err hp⟩

/-- The line-buffer index of a PIX in RUN is the only thing a command can stop on. -/
theorem exec_completes (i : Instr) (hb : s.ph = .run → bufferReached s = true) : ∃ t, exec i s = .next t := by
  cases i with
  | setw w => rw [exec_setw]; exact inIdle_completes ⟨_, rfl⟩
  | seth v => rw [exec_seth]; exact inIdle_completes ⟨_, rfl⟩
  | sett v => rw [exec_sett]; exact inIdle_completes ⟨_, rfl⟩
  | setm f bg =>
    by_cases hf : f = 3#2
    · exact ⟨_, exec_ill_formed (by simp [Instr.wellFormed, hf])⟩
    · obtain ⟨m, rfl⟩ := exists_modeCode_eq hf
      rw [exec_setm_modeCode]
      exact inIdle_completes ⟨_, rfl⟩
  | start => rw [exec_start]; exact inIdle_completes ⟨_, rfl⟩
  | pix p =>
    cases hp : s.ph with
    | idle => exact ⟨_, exec_pix_idle p hp⟩
    | run => exact ⟨_, exec_pix_run p hp (hb hp)⟩
    | err => exact ⟨_, exec_pix_err p hp⟩
  | rst => exact ⟨_, exec_rst s⟩

end Completes

/-- Settles O32: in RUN the invariant puts the pixel inside a usable width, so its index exists. -/
theorem stepNeverStops : Obligations.StepNeverStops := by
  intro s h
  cases hi : s.input with
  | nil => exact ⟨s, step_of_input_nil hi⟩
  | cons e rest =>
    cases e with
    | resetPin => exact ⟨_, step_resetPin hi⟩
    | command w =>
      cases hd : decode w with
      | illegal why => exact ⟨_, step_illegal hi hd⟩
      | command i =>
        rw [step_command hi hd]
        refine exec_completes i fun hp => ?_
        have f := (h.withInput rest).running hp
        exact bufferReached_of_x_lt f.x_lt f.geometry

/-! ### Bytes since the START (10_state.md R35 (vi); 44_preview_and_packer.md R170) -/

theorem bytesSince_beginFrame (s : State) : bytesSince s.bytes.length (beginFrame s) := by
  simp [bytesSince]

/-- A PIX adds the byte that its place completes. -/
theorem InFrame.bytesSince_pixelStep {n0 : Nat} {s : State} (f : InFrame s) (p : Byte) (h : bytesSince n0 s) :
    bytesSince n0 (Machine.pixelStep p s) := by
  have hbc := f.bc_eq
  have hpacker := pixelStep_packer p s
  unfold bytesSince at h ⊢
  rw [pixelStep_width, pixelStep_x, pixelStep_y]
  by_cases hend : s.x.toNat + 1 = s.width.toNat
  · have hlast : lastOfRow s = true := lastOfRow_iff.mpr hend
    have hstride : stride s.width.toNat = s.x.toNat / 8 + 1 := by unfold stride; omega
    rw [if_pos (.inr hend)] at hpacker
    rw [if_pos hlast, if_pos hlast, toNat_add_one_of_lt f.y_lt, BitVec.toNat_zero, hpacker.1, List.length_append, h,
      Nat.succ_mul, List.length_singleton]
    omega
  · have hlast : ¬lastOfRow s = true := mt lastOfRow_iff.mp hend
    rw [if_neg hlast, if_neg hlast, toNat_add_one_of_lt f.x_lt]
    by_cases hfull : s.bc = 7#3
    · have hseven : s.bc.toNat = 7 := congrArg BitVec.toNat hfull
      rw [if_pos (.inl hfull)] at hpacker
      rw [hpacker.1, List.length_append, h, List.length_singleton]
      omega
    · have hseven : s.bc.toNat ≠ 7 := fun h7 => hfull (BitVec.eq_of_toNat_eq h7)
      rw [if_neg (by simp [hfull, hend])] at hpacker
      rw [hpacker.1, h]
      omega

/-- Settles O33: the count holds at every pixel; where the frame is over X is 0 and Y is HEIGHT. -/
theorem bytesEmittedSinceStart : Obligations.BytesEmittedSinceStart := by
  constructor
  · intro s t hp hg ht
    obtain rfl : beginFrame s = t := Host.Outcome.next.inj ((exec_start_ready hp hg).symm.trans ht)
    exact bytesSince_beginFrame s
  · intro n0 p s t hinv hp h ht
    obtain rfl := exec_pix_run_eq hp ht
    have f := hinv.running hp
    have hbytes := f.bytesSince_pixelStep p h
    refine ⟨fun _ => hbytes, fun hidle => ⟨?_, hbytes⟩⟩
    obtain ⟨hend, hbottom⟩ := atFrameEnd_of_pixelStep_idle p hp hidle
    obtain ⟨-, hx, hy, -⟩ := f.pixelStep_frameEnd p (by omega) (by omega)
    rw [pixelStep_height, pixelStep_width]
    rw [bytesSince, hx, hy, pixelStep_width] at hbytes
    simpa using hbytes

end Sys2Proof.Machine
end

section
/-! What a PIX does not read: the fault code, what has been emitted, and the reset counter. -/

namespace Sys2Proof.Machine

/-- The state with another fault code, other emissions and another reset counter. -/
def withPast (e : Option Cause) (bytes : List Byte) (records : List PixelRecord) (n : Nat) (s : State) : State :=
  { s with errcode := e, bytes := bytes, pixels := records, resets := n }

/-- The bytes a PIX emits: the one its pixel completes, or none (44_preview_and_packer.md R167). -/
def pixelBytes (p : Byte) (s : State) : List Byte := if flushes s then [place (!(quantize p s).1) s] else []

section WithPast
variable (e : Option Cause) (bytes : List Byte) (records : List PixelRecord) (n : Nat) (p : Byte) (s : State)

theorem quantize_withPast :
    quantize p (withPast e bytes records n s) = ((quantize p s).1, withPast e bytes records n (quantize p s).2) := by
  cases hm : s.mode with
  | threshold => rw [quantize_of_threshold p hm, quantize_of_threshold p (s := withPast e bytes records n s) hm]; rfl
  | ordered => rw [quantize_of_ordered p hm, quantize_of_ordered p (s := withPast e bytes records n s) hm]; rfl
  | diffuse =>
    cases hd : s.params.diffusion with
    | floydSteinberg =>
      rw [quantize_of_floydSteinberg p hm hd, quantize_of_floydSteinberg p (s := withPast e bytes records n s) hm hd]
      rfl
    | other k =>
      rw [quantize_of_other p hm hd, quantize_of_other p (s := withPast e bytes records n s) hm hd]
      rfl

/-- What it emits is added to the emissions of either past, and the rest of the next state is the same. -/
theorem pixelStep_withPast :
    pixelStep p (withPast e bytes records n s) =
      withPast e (bytes ++ pixelBytes p s) (records ++ [pixelRecord (quantize p s).1 s.bg]) n (pixelStep p s) := by
  have hstate : pixelStep p (withPast e bytes records n s) =
      withPast e (pixelStep p (withPast e bytes records n s)).bytes (pixelStep p (withPast e bytes records n s)).pixels n
        (pixelStep p s) := by
    rw [pixelStep, quantize_withPast, outputPixel_eq, pixelStep, outputPixel_eq]
    rfl
  rw [hstate, pixelStep_bytes, pixelStep_pixels, quantize_withPast]
  rfl

theorem pixelStep_bytes_eq : (pixelStep p s).bytes = s.bytes ++ pixelBytes p s := pixelStep_bytes p s

end WithPast

/-! ### A phase check in two blocks of the same phase -/

section PhaseChecksRelated
variable {R : State → State → Prop} {act : State → StepResult} {a b : State}

theorem inIdle_related (hph : b.ph = a.ph) (h : R a b) (hraise : R (raise .encodingError a) (raise .encodingError b))
    (hact : outcomesRelated R (act a) (act b)) : outcomesRelated R (inIdle act a) (inIdle act b) := by
  cases hp : a.ph with
  | idle => rwa [inIdle_idle hp, inIdle_idle (hph.trans hp)]
  | run => rwa [inIdle_run hp, inIdle_run (hph.trans hp)]
  | err => rwa [inIdle_err hp, inIdle_err (hph.trans hp)]

theorem inRun_related (hph : b.ph = a.ph) (h : R a b) (hraise : R (raise .encodingError a) (raise .encodingError b))
    (hact : a.ph = .run → outcomesRelated R (act a) (act b)) : outcomesRelated R (inRun act a) (inRun act b) := by
  cases hp : a.ph with
  | idle => rwa [inRun_idle hp, inRun_idle (hph.trans hp)]
  | run => rw [inRun_run hp, inRun_run (hph.trans hp)]; exact hact hp
  | err => rwa [inRun_err hp, inRun_err (hph.trans hp)]

end PhaseChecksRelated

theorem outcomesRelated_mono {R S : State → State → Prop} (h : ∀ a b, R a b → S a b) {o o' : StepResult}
    (ho : outcomesRelated R o o') : outcomesRelated S o o' := by
  cases o <;> cases o'
  case next.next a b => exact h a b ho
  case fault.fault => exact ho
  case refused.refused => exact ho
  all_goals exact ho.elim

end Sys2Proof.Machine
end

section
/-! Two blocks that differ in LB outside a frame (10_state.md R33): START clears LB in both, and nothing reads it before. -/

namespace Sys2Proof.Machine

section SameButIdleBuffer
variable {a b : State}

theorem SameButIdleBuffer.ph_eq (h : SameButIdleBuffer a b) : b.ph = a.ph := by rw [h.state]

theorem SameButIdleBuffer.geometryBad_eq (h : SameButIdleBuffer a b) : geometryBad b = geometryBad a := by
  rw [h.state]; rfl

theorem SameButIdleBuffer.bufferReached_eq (h : SameButIdleBuffer a b) : bufferReached b = bufferReached a := by
  rw [h.state]; rfl

/-- In RUN only the reset counter differs. -/
theorem SameButIdleBuffer.eq_withPast (h : SameButIdleBuffer a b) (hp : a.ph = .run) :
    b = withPast a.errcode a.bytes a.pixels b.resets a :=
  h.state.trans (congrArg (fun lb => { a with lb := lb, resets := b.resets }) (h.running hp))

theorem SameButIdleBuffer.withInput_both (rest : List HostEvent) (h : SameButIdleBuffer a b) :
    SameButIdleBuffer (withInput rest a) (withInput rest b) :=
  ⟨congrArg (withInput rest) h.state, h.running⟩

/-- ERR reads no LB. -/
theorem SameButIdleBuffer.raise_both (e : Cause) (h : SameButIdleBuffer a b) :
    SameButIdleBuffer (raise e a) (raise e b) :=
  ⟨congrArg (raise e) h.state, fun hp => by cases hp⟩

/-- A reset leaves each block with a content of its own. -/
theorem SameButIdleBuffer.resetAll_both (h : SameButIdleBuffer a b) : SameButIdleBuffer (resetAll a) (resetAll b) :=
  ⟨congrArg resetAll h.state, fun hp => by cases hp⟩

/-- A START leaves both with the same content, all 0. -/
theorem SameButIdleBuffer.beginFrame_both (h : SameButIdleBuffer a b) :
    SameButIdleBuffer (beginFrame a) (beginFrame b) :=
  ⟨congrArg beginFrame h.state, fun _ => rfl⟩

theorem SameButIdleBuffer.illegalCommand_both (h : SameButIdleBuffer a b) :
    SameButIdleBuffer (illegalCommand a) (illegalCommand b) := by
  by_cases hp : a.ph = .err
  · rwa [illegalCommand_err hp, illegalCommand_err (h.ph_eq.trans hp)]
  · rw [illegalCommand_live hp, illegalCommand_live (h.ph_eq ▸ hp)]
    exact h.raise_both .illegalCommand

/-- In RUN a PIX finds the same LB in both, and makes the same of it. -/
theorem SameButIdleBuffer.pixelStep_both (p : Byte) (h : SameButIdleBuffer a b) (hp : a.ph = .run) :
    SameButIdleBuffer (pixelStep p a) (pixelStep p b) := by
  have hstep : pixelStep p b = { pixelStep p a with resets := b.resets } := by
    rw [h.eq_withPast hp, pixelStep_withPast, ← pixelStep_bytes_eq, ← pixelStep_pixels, ← pixelStep_errcode p a]
    rfl
  rw [hstep]
  exact ⟨rfl, fun _ => rfl⟩

/-! ### The commands and the step -/

/-- A command legal in IDLE only, whose action keeps the relation. -/
theorem SameButIdleBuffer.inIdle_both {act : State → StepResult} (h : SameButIdleBuffer a b)
    (hact : outcomesRelated SameButIdleBuffer (act a) (act b)) :
    outcomesRelated SameButIdleBuffer (inIdle act a) (inIdle act b) :=
  inIdle_related h.ph_eq h (h.raise_both .encodingError) hact

/-- Writing configuration keeps the relation. -/
theorem SameButIdleBuffer.configure_both (h : SameButIdleBuffer a b) {write : State → State}
    (hwrite : ∀ lb n, write { a with lb := lb, resets := n } = { write a with lb := lb, resets := n })
    (hph : (write a).ph = a.ph) (hlb : (write a).lb = a.lb) : SameButIdleBuffer (write a) (write b) := by
  have hb : write b = { write a with lb := b.lb, resets := b.resets } :=
    (congrArg write h.state).trans (hwrite b.lb b.resets)
  rw [hb]
  exact ⟨rfl, fun hp => (h.running (hph ▸ hp)).trans hlb.symm⟩

theorem SameButIdleBuffer.exec_both {i : Instr} (h : SameButIdleBuffer a b) (hwf : i.wellFormed = true) :
    outcomesRelated SameButIdleBuffer (exec i a) (exec i b) := by
  cases i with
  | setw w =>
    rw [exec_setw, exec_setw]
    exact h.inIdle_both (h.configure_both (write := fun s => { s with width := w }) (fun _ _ => rfl) rfl rfl)
  | seth v =>
    rw [exec_seth, exec_seth]
    exact h.inIdle_both (h.configure_both (write := fun s => { s with height := v }) (fun _ _ => rfl) rfl rfl)
  | sett v =>
    rw [exec_sett, exec_sett]
    exact h.inIdle_both (h.configure_both (write := fun s => { s with thresh := v }) (fun _ _ => rfl) rfl rfl)
  | setm f bg =>
    obtain ⟨m, rfl⟩ := exists_modeCode_eq (bne_iff_ne.mp hwf)
    rw [exec_setm_modeCode, exec_setm_modeCode]
    exact h.inIdle_both (h.configure_both (write := fun s => { s with mode := m, bg := bg }) (fun _ _ => rfl) rfl rfl)
  | start =>
    rw [exec_start, exec_start]
    refine h.inIdle_both ?_
    rw [h.geometryBad_eq]
    split
    · exact h.raise_both .invalidGeometry
    · exact h.beginFrame_both
  | pix p =>
    rw [exec_pix, exec_pix]
    refine inRun_related h.ph_eq h (h.raise_both .encodingError) fun hp => ?_
    rw [h.bufferReached_eq]
    split
    · exact h.pixelStep_both p hp
    · rfl
  | rst => exact h.resetAll_both

theorem SameButIdleBuffer.step_both (h : SameButIdleBuffer a b) :
    outcomesRelated SameButIdleBuffer (step a) (step b) := by
  have hinput : b.input = a.input := by rw [h.state]
  cases hi : a.input with
  | nil =>
    rw [step_of_input_nil hi, step_of_input_nil (hinput.trans hi)]
    exact h
  | cons e rest =>
    have htaken : SameButIdleBuffer (withInput rest a) (withInput rest b) := h.withInput_both rest
    cases e with
    | resetPin =>
      rw [step_resetPin hi, step_resetPin (hinput.trans hi)]
      exact htaken.resetAll_both
    | command w =>
      cases hd : decode w with
      | illegal why =>
        rw [step_illegal hi hd, step_illegal (hinput.trans hi) hd]
        exact htaken.illegalCommand_both
      | command i =>
        rw [step_command hi hd, step_command (hinput.trans hi) hd]
        exact htaken.exec_both (wellFormed_of_decode hd)

end SameButIdleBuffer

/-- Settles O55: the step lemma carried over the run. -/
theorem bufferAfterResetIsUnobservable : Obligations.BufferAfterResetIsUnobservable := by
  intro n a b h
  exact runSteps_related (fun _ _ => SameButIdleBuffer.step_both) h

end Sys2Proof.Machine
end

section
/-! A frame in two blocks of the same configuration (10_state.md R34; 41_frame_control.md R122): after the START they
differ only in what no PIX reads, and every PIX emits the same in both. -/

namespace Sys2Proof.Machine

/-- `t` and `u`, some way into the same frame of blocks that began as `a` and `b`: they differ only in the fault code, in
the reset counter and in what was emitted before the frame, and only PIX commands are left to take. -/
structure SameFrame (a b t u : State) : Prop where
  state : u = withPast u.errcode u.bytes u.pixels u.resets t
  emitted : ∃ (bytes : List Byte) (records : List PixelRecord),
    t.bytes = a.bytes ++ bytes ∧ u.bytes = b.bytes ++ bytes ∧
    t.pixels = a.pixels ++ records ∧ u.pixels = b.pixels ++ records
  input : ∃ pixels : List Byte, t.input = commandsOf (pixels.map .pix)

section SameFrame
variable {a b t u : State}

theorem SameFrame.ph_eq (h : SameFrame a b t u) : u.ph = t.ph := by rw [h.state]; rfl

theorem SameFrame.done_eq (h : SameFrame a b t u) : u.done = t.done := by rw [h.state]; rfl

theorem SameFrame.input_eq (h : SameFrame a b t u) : u.input = t.input := by rw [h.state]; rfl

theorem SameFrame.bufferReached_eq (h : SameFrame a b t u) : bufferReached u = bufferReached t := by rw [h.state]; rfl

theorem SameFrame.raise_both (e : Cause) (h : SameFrame a b t u) : SameFrame a b (raise e t) (raise e u) :=
  ⟨congrArg (raise e) h.state, h.emitted, h.input⟩

theorem SameFrame.withInput_both (h : SameFrame a b t u) (pixels : List Byte) :
    SameFrame a b (withInput (commandsOf (pixels.map .pix)) t) (withInput (commandsOf (pixels.map .pix)) u) :=
  ⟨congrArg (withInput _) h.state, h.emitted, pixels, rfl⟩

/-- Both emit the byte and the record of the same pixel. -/
theorem SameFrame.pixelStep_both (p : Byte) (h : SameFrame a b t u) :
    SameFrame a b (pixelStep p t) (pixelStep p u) := by
  obtain ⟨bytes, records, ht, hu, htp, hup⟩ := h.emitted
  obtain ⟨pixels, hinput⟩ := h.input
  rw [h.state, pixelStep_withPast]
  refine ⟨rfl, ⟨bytes ++ pixelBytes p t, records ++ [pixelRecord (quantize p t).1 t.bg], ?_, ?_, ?_, ?_⟩,
    pixels, (pixelStep_input p t).trans hinput⟩
  · rw [pixelStep_bytes_eq, ht, List.append_assoc]
  · rw [← List.append_assoc, ← hu]; rfl
  · rw [pixelStep_pixels, htp, List.append_assoc]
  · rw [← List.append_assoc, ← hup]; rfl

theorem SameFrame.step_both (h : SameFrame a b t u) : outcomesRelated (SameFrame a b) (step t) (step u) := by
  obtain ⟨pixels, hinput⟩ := h.input
  cases pixels with
  | nil =>
    rw [step_of_input_nil hinput, step_of_input_nil (h.input_eq.trans hinput)]
    exact h
  | cons p pixels =>
    have htaken := h.withInput_both pixels
    rw [List.map_cons, commandsOf_cons] at hinput
    rw [step_command hinput (decode_encode_pix p), step_command (h.input_eq.trans hinput) (decode_encode_pix p),
      exec_pix, exec_pix]
    refine inRun_related htaken.ph_eq htaken (htaken.raise_both .encodingError) fun _ => ?_
    rw [htaken.bufferReached_eq]
    split
    · exact htaken.pixelStep_both p
    · rfl

end SameFrame

/-- `init_frame` and the header leave of two blocks what their configuration says, and their pasts. -/
theorem beginFrame_eq_withPast {a b : State} (hc : SameConfiguration a b) (hinput : b.input = a.input) :
    beginFrame b = withPast b.errcode (b.bytes ++ [headerByte]) b.pixels b.resets (beginFrame a) := by
  simp only [beginFrame, emitByte, initFrame, withPast, hc.width, hc.height, hc.thresh, hc.mode, hc.bg, hc.params, hinput]

/-- The step on the START of a frame. -/
theorem step_start_ready {s : State} {rest : List HostEvent} (hi : s.input = .command (encode .start) :: rest)
    (hp : s.ph = .idle) (hg : GoodGeometry s) : step s = .next (beginFrame (withInput rest s)) := by
  rw [step_command hi decode_encode_start]
  exact exec_start_ready hp (hg.withInput rest)

theorem SameConfiguration.goodGeometry {a b : State} (hc : SameConfiguration a b) (hg : GoodGeometry a) :
    GoodGeometry b :=
  ⟨hc.width ▸ hg.width_pos, hc.width ▸ hc.params ▸ hg.width_le, hc.height ▸ hg.height_pos⟩

/-- Settles O56: after the START the blocks are in the same frame, and every later step keeps them there. -/
theorem frameForgetsThePast : Obligations.FrameForgetsThePast := by
  intro n a b pixels hc ha hb hg hia hib
  have hstart : SameFrame a b (beginFrame (withInput (commandsOf (pixels.map .pix)) a))
      (beginFrame (withInput (commandsOf (pixels.map .pix)) b)) :=
    ⟨beginFrame_eq_withPast ⟨hc.width, hc.height, hc.thresh, hc.mode, hc.bg, hc.params⟩ rfl,
      ⟨[headerByte], [], rfl, rfl, (List.append_nil _).symm, (List.append_nil _).symm⟩, pixels, rfl⟩
  have hrun := runSteps_related (fun _ _ => SameFrame.step_both) (n := n) hstart
  rw [runSteps_succ, runSteps_succ, step_start_ready hia ha hg, step_start_ready hib hb (hc.goodGeometry hg),
    afterStep_next, afterStep_next]
  refine outcomesRelated_mono (fun t u h => ?_) hrun
  obtain ⟨bytes, records, ht, hu, htp, hup⟩ := h.emitted
  exact ⟨bytes, records, ht, hu, htp, hup, h.ph_eq, h.done_eq⟩

end Sys2Proof.Machine
end

section
/-! One pixel in MODE 2 and under another diffusion (42_quantizer.md R133; 43_error_diffusion.md R150), and the records of a
pixel (44_preview_and_packer.md R161). -/

namespace Sys2Proof.Machine

/-! ### MODE 2 (42_quantizer.md R133) -/

/-- The rows and columns of the map repeat over the frame, so both lookups succeed. -/
theorem ordThreshold_eq_of_lookup {map : OrdMap} {x y : Nat} {row : Vector Byte map.side} {thr : Byte}
    (hrow : map.rows[y % map.side]? = some row) (hthr : row[x % map.side]? = some thr) : ordThreshold map x y = thr := by
  obtain ⟨_, rfl⟩ := Vector.getElem?_eq_some_iff.mp hrow
  obtain ⟨_, rfl⟩ := Vector.getElem?_eq_some_iff.mp hthr
  rfl

/-- Settles O23: the next state of every mode but MODE 1, its bit compared with the map's entry. -/
theorem pixInOrderedMode : Obligations.PixInOrderedMode := by
  intro p s row thr hp hm hrow hthr
  rw [exec_pix_undiffused p hp (by simp [hm]), quantize_of_ordered p hm, ordThreshold_eq_of_lookup hrow hthr]
  rfl

theorem ordThreshold_ne_zero {params : Params} (hwf : params.wf = true) (x y : Nat) :
    ordThreshold params.ordMap x y ≠ 0#8 := by
  obtain ⟨-, hentries⟩ := (Bool.and_eq_true _ _).mp hwf
  have hrow := List.all_eq_true.mp hentries _
    (Vector.mem_toList_iff.mpr (Vector.getElem_mem (Nat.mod_lt y params.ordMap.pos)))
  exact bne_iff_ne.mp (List.all_eq_true.mp hrow _
    (Vector.mem_toList_iff.mpr (Vector.getElem_mem (Nat.mod_lt x params.ordMap.pos))))

theorem thresholdBit_black {thr : Byte} (h : thr ≠ 0#8) : thresholdBit thr 0#8 = false :=
  decide_eq_false (by bv_omega)

theorem thresholdBit_white (thr : Byte) : thresholdBit thr 255#8 = true := decide_eq_true (Nat.le_of_lt_succ thr.isLt)

/-- Settles O50: no entry is 0, so black is below every one, and none is above white. -/
theorem orderedKeepsBlackAndWhite : Obligations.OrderedKeepsBlackAndWhite := by
  intro s t hwf hp hm
  constructor
  · intro ht
    obtain rfl := exec_pix_run_eq hp ht
    rw [pixelStep_pixels, quantize_of_ordered _ hm, thresholdBit_black (ordThreshold_ne_zero hwf _ _)]
    rfl
  · intro ht
    obtain rfl := exec_pix_run_eq hp ht
    rw [pixelStep_pixels, quantize_of_ordered _ hm, thresholdBit_white]
    rfl

/-! ### MODE 1 under another diffusion (43_error_diffusion.md R150) -/

/-- Another algorithm makes its own writes; the end of a row adds none. -/
theorem endOfRowBuffer_other {s : State} {k : Nat} (hd : s.params.diffusion = .other k) : endOfRowBuffer s = s.lb := by
  cases hm : s.mode <;> simp [endOfRowBuffer, hm, hd]

/-- Settles O25: what the algorithm answers is stored before the pixel is output, and the end of a row clears the
carries. -/
theorem pixUnderAnotherDiffusion : Obligations.PixUnderAnotherDiffusion := by
  rintro p s k _ hp hm hd hx rfl
  have hreached : bufferReached s = true := by simpa [bufferReached, hm] using hx
  rw [exec_pix_run p hp hreached, pixelStep, quantize_of_other p hm hd, quantizeOther, outputPixel_eq,
    endOfRowBuffer_other (by rwa [applyDiffusion_params]), ite_self]
  rfl

/-! ### The three records (30_encoding.md R88; 44_preview_and_packer.md R161) -/

theorem pixelRecord_word_cases (m bg : Bool) :
    (pixelRecord m bg).word = 0x0000000#25 ∨ (bg = false ∧ (pixelRecord m bg).word = 0x1FFFFFF#25) ∨
      (bg = true ∧ (pixelRecord m bg).word = 0x1FF8200#25) := by
  cases m with
  | false => exact .inl (by rw [pixelRecord, preview, if_neg Bool.false_ne_true]; rfl)
  | true =>
    cases bg with
    | false => exact .inr (.inl ⟨rfl, rfl⟩)
    | true => exact .inr (.inr ⟨rfl, rfl⟩)

/-- Settles O39: the record is that of the quantizer's bit under the present BG. -/
theorem pixelRecordsAreThreeWords : Obligations.PixelRecordsAreThreeWords := by
  intro p s t hp ht
  obtain rfl := exec_pix_run_eq hp ht
  exact ⟨pixelRecord (quantize p s).1 s.bg, pixelStep_pixels p s, pixelRecord_word_cases _ _⟩

end Sys2Proof.Machine
end

section
/-! The equation of a picture's errors (43_error_diffusion.md R142) and the division it rests on (R147). -/

namespace Sys2Proof.Machine

/-- Settles O36: inside the frame the rows of the reference picture are the equation's; beyond its left, right and upper
edges they are 0. -/
theorem pictureErrorsSatisfyTheEquation : Obligations.PictureErrorsSatisfyTheEquation := by
  intro w lum
  refine ⟨fun x y hx => errorAt_eq_pixelError hx, fun x y houtside => ?_⟩
  rcases houtside with hleft | hright | habove
  · exact errorAt_left hleft
  · exact errorAt_right hright
  · exact errorAt_above habove

/-- Settles O52: `tdiv16` is the truncating division, which commutes with the sign and divides the magnitude. -/
theorem divisionTruncatesTowardZero : Obligations.DivisionTruncatesTowardZero := by
  intro v
  rw [tdiv16_eq_tdiv, tdiv16_eq_tdiv]
  exact ⟨Int.neg_tdiv v 16, Int.natAbs_tdiv v 16, rfl⟩

end Sys2Proof.Machine
end

section
/-! Whole frames in MODE 0 and MODE 2 (42_quantizer.md R130, R133): the bit of every pixel depends on its luminance, its
place and the configuration. -/

namespace Sys2Proof.Machine

/-- The records of the PIX of a picture, from any place on: a property `P` of states that every PIX keeps and that fixes
the quantizer's bit at every place fixes the records. -/
theorem recordsOf_picture {P : State → Prop} {lum : Nat → Nat → Byte} {bit : Nat → Nat → Bool} {w n : Nat} {s : State}
    (hkeep : ∀ (u : State) (p : Byte), P u → P (pixelStep p u))
    (hbit : ∀ u, P u → (quantize (lum u.y.toNat u.x.toNat) u).1 = bit u.y.toNat u.x.toNat)
    (hw : s.width.toNat = w) (hr : OnRaster s) (hroom : rasterIndex s + n ≤ frameSize s) (h : P s) :
    recordsOf (rasterPixels w lum (rasterIndex s) n) s =
      (List.range' (rasterIndex s) n).map fun i => pixelRecord (bit (i / w) (i % w)) s.bg := by
  induction n generalizing s with
  | zero => rfl
  | succ n ih =>
    subst hw
    have hlt : rasterIndex s < frameSize s := by omega
    have hindex := (pixelStep_rasterIndex (lum s.y.toNat s.x.toNat) hr.x_lt (y_lt_of_rasterIndex_lt hlt)).2
    have hrest := ih (s := pixelStep (lum s.y.toNat s.x.toNat) s) (by rw [pixelStep_width]) (hr.pixelStep _ hlt)
      (by rw [hindex, pixelStep_frameSize]; omega) (hkeep s _ h)
    rw [hindex, pixelStep_bg] at hrest
    rw [rasterPixels_succ, List.range'_succ, List.map_cons, recordsOf, rasterIndex_div hr.x_lt, rasterIndex_mod hr.x_lt,
      hbit s h, hrest]

/-- The records of a whole frame under such a property. -/
theorem afterFrame_pixels_picture {P : State → Prop} {bit : Nat → Nat → Bool} {s : State} {pixels : List Byte}
    {rest : List HostEvent} (h : FrameReady s pixels rest)
    (hkeep : ∀ (u : State) (p : Byte), P u → P (pixelStep p u))
    (hbit : ∀ u, P u →
      (quantize (lumAt pixels s.width.toNat u.y.toNat u.x.toNat) u).1 = bit u.y.toNat u.x.toNat)
    (hstart : P (beginFrame s)) :
    (afterFrame pixels rest s).pixels = s.pixels ++ rasterRecords s.width.toNat s.height.toNat bit s.bg := by
  obtain ⟨hr, hindex⟩ := onRaster_beginFrame h.geometry
  have hrecords := recordsOf_picture (lum := lumAt pixels s.width.toNat) (w := s.width.toNat) hkeep hbit
    (s := beginFrame s) rfl hr h.room.le hstart
  rw [hindex, ← List.range_eq_range', rasterPixels_lumAt, h.count] at hrecords
  rw [afterFrame_pixels, frameRecords, hrecords]
  rfl

/-- Settles O46: no PIX writes MODE, THRESH or the map, and with them given each comparator's bit is a function of the
luminance and the place. -/
theorem plainFramesFollowTheComparator : Obligations.PlainFramesFollowTheComparator := by
  intro s t pixels rest h ht
  obtain rfl : afterFrame pixels rest s = t := Host.Outcome.next.inj ((runSteps_frame h).symm.trans ht)
  refine ⟨fun hm => ?threshold, fun hm => ?ordered⟩
  case threshold =>
    refine afterFrame_pixels_picture (P := fun u => u.mode = .threshold ∧ u.thresh = s.thresh) h
      (fun u p ⟨hmode, hthresh⟩ => ⟨(pixelStep_mode p u).trans hmode, (pixelStep_thresh p u).trans hthresh⟩)
      (fun u ⟨hmode, hthresh⟩ => ?_) ⟨hm, rfl⟩
    rw [quantize_of_threshold _ hmode, hthresh]
    rfl
  case ordered =>
    refine afterFrame_pixels_picture (P := fun u => u.mode = .ordered ∧ u.params = s.params) h
      (fun u p ⟨hmode, hparams⟩ => ⟨(pixelStep_mode p u).trans hmode, (pixelStep_params p u).trans hparams⟩)
      (fun u ⟨hmode, hparams⟩ => ?_) ⟨hm, rfl⟩
    rw [quantize_of_ordered _ hmode, hparams]
    rfl

end Sys2Proof.Machine
end

section
/-! Uniform frames in MODE 1 under the decided algorithm (43_error_diffusion.md R151): at luminance 0 and at luminance 255
no pixel makes an error, so nothing is ever passed on. -/

namespace Sys2Proof.Machine

/-- MODE 1 under the decided algorithm with no error on its way: the carries and LB are 0. -/
structure NoError (s : State) : Prop where
  mode : s.mode = .diffuse
  diffusion : s.params.diffusion = .floydSteinberg
  carries : carriesZero s
  buffer : s.lb = LineBuffer.zero

section NoError
variable {s : State} {p : Byte} {m : Bool}

theorem noError_beginFrame (hm : s.mode = .diffuse) (hd : s.params.diffusion = .floydSteinberg) :
    NoError (beginFrame s) := ⟨hm, hd, ⟨rfl, rfl, rfl⟩, rfl⟩

theorem NoError.incomingError_eq (h : NoError s) : incomingError s = 0 := by
  obtain ⟨hc7, -, -⟩ := h.carries
  rw [incomingError, hc7, h.buffer, read_zero]
  rfl

/-- Writing 0 to an entry of a cleared buffer lists nothing. -/
theorem zero_write_zero (i : Nat) : LineBuffer.zero.write i 0#12 = LineBuffer.zero := rfl

/-- Passing no error on writes what is there already. -/
theorem NoError.passError_eq (h : NoError s) : passError 0 s = s := by
  obtain ⟨hc7, hc51, hc1⟩ := h.carries
  have hlb := h.buffer
  cases s
  simp only at hc7 hc51 hc1 hlb
  subst hc7 hc51 hc1 hlb
  rfl

/-- A pixel whose own luminance makes no error has the bit of that luminance, and changes nothing. -/
theorem NoError.quantize_eq (h : NoError s) (hm : diffuseBit (correctedLum p 0) = m) (he : pixelError p 0 = 0) :
    quantize p s = (m, s) := by
  rw [quantize_eq_passError p h.mode h.diffusion, h.incomingError_eq, he, hm, h.passError_eq]

theorem NoError.pixelStep (h : NoError s) (he : pixelError p 0 = 0) : NoError (pixelStep p s) := by
  obtain ⟨hc7, hc51, hc1⟩ := h.carries
  have hq := h.quantize_eq rfl he
  refine ⟨(pixelStep_mode p s).trans h.mode, by rw [pixelStep_params]; exact h.diffusion, ⟨?c7, ?c51, ?c1⟩, ?buffer⟩
  case c7 => rw [pixelStep_c7, hq, hc7, ite_self]
  case c51 => rw [pixelStep_c51, hq, hc51, ite_self]
  case c1 => rw [pixelStep_c1, hq, hc1, ite_self]
  case buffer =>
    rw [pixelStep_lb, hq, endOfRowBuffer_floydSteinberg h.mode h.diffusion, hc51, h.buffer]
    exact (congrArg (ite _ · _) (zero_write_zero _)).trans (ite_self _)

theorem NoError.afterPixels_replicate (h : NoError s) (he : pixelError p 0 = 0) (n : Nat) :
    NoError (afterPixels (List.replicate n p) s) := by
  induction n generalizing s with
  | zero => exact h
  | succ n ih =>
    rw [List.replicate_succ, afterPixels_cons]
    exact ih (h.pixelStep he)

theorem NoError.recordsOf_replicate (h : NoError s) (hm : diffuseBit (correctedLum p 0) = m) (he : pixelError p 0 = 0)
    (n : Nat) : recordsOf (List.replicate n p) s = List.replicate n (pixelRecord m s.bg) := by
  induction n generalizing s with
  | zero => rfl
  | succ n ih =>
    rw [List.replicate_succ, recordsOf, h.quantize_eq hm he, ih (h.pixelStep he), pixelStep_bg, List.replicate_succ]

end NoError

/-! ### The payload of a uniform picture (20_memory.md R57, R58) -/

/-- The payload is fixed by the bits inside the frame. -/
theorem payloadOf_congr {w h : Nat} {m m' : Nat → Nat → Bool} (hm : ∀ y < h, ∀ x < w, m y x = m' y x) :
    payloadOf w h m = payloadOf w h m' := by
  have hbit {y : Nat} (hy : y < h) (c : Nat) : payloadBit w (m y) c = payloadBit w (m' y) c := by
    unfold payloadBit
    by_cases hc : c < w
    · rw [hm y hy c hc]
    · simp [hc]
  have hbyte {y : Nat} (hy : y < h) : payloadByte w (m y) = payloadByte w (m' y) := by
    funext k
    simp only [payloadByte, hbit hy]
  have hrow {y : Nat} (hy : y < h) : payloadRow w (m y) = payloadRow w (m' y) := by rw [payloadRow, hbyte hy]; rfl
  rw [payloadOf, payloadOf, payloadRows, payloadRows, List.flatMap_congr fun y hy => hrow (List.mem_range.mp hy)]

/-- On pixels are 0 in the payload, as the padding is. -/
theorem payloadByte_on (w k : Nat) : payloadByte w (fun _ => true) k = 0#8 := by
  refine BitVec.eq_of_getLsbD_eq fun i hi => ?_
  simp [getLsbD_payloadByte _ _ _ hi, payloadBit]

theorem payloadOf_on (w h : Nat) :
    payloadOf w h (fun _ _ => true) = List.replicate (1 + h * stride w) 0x00#8 := by
  refine List.eq_replicate_iff.mpr ⟨payloadOf_length w h _, fun b hb => ?_⟩
  rcases List.mem_cons.mp hb with rfl | hb
  · rfl
  · obtain ⟨y, -, hrow⟩ := List.mem_flatMap.mp hb
    obtain ⟨k, -, rfl⟩ := List.mem_map.mp hrow
    exact payloadByte_on w k

theorem recordBit_replicate {n i : Nat} (m bg : Bool) (hi : i < n) :
    recordBit (List.replicate n (pixelRecord m bg)) i = m := by
  simp [recordBit, hi, pixelRecord]

/-! ### The frame -/

/-- A frame of one luminance that makes no error: every pixel has its bit, and LB is left as START made it. -/
theorem uniformFrame {s t : State} {n : Nat} {rest : List HostEvent} {p : Byte} {m : Bool} (hmode : s.mode = .diffuse)
    (hd : s.params.diffusion = .floydSteinberg) (hm : diffuseBit (correctedLum p 0) = m) (he : pixelError p 0 = 0)
    (h : FrameReady s (List.replicate n p) rest) (ht : runSteps (1 + n) s = .next t) :
    t.pixels = s.pixels ++ List.replicate n (pixelRecord m s.bg) ∧
      t.bytes = s.bytes ++ payloadOf s.width.toNat s.height.toNat (fun _ _ => m) ∧ t.lb = LineBuffer.zero := by
  have hstart := noError_beginFrame hmode hd
  have hrun := runSteps_frame h
  rw [List.length_replicate, ht] at hrun
  obtain rfl := Host.Outcome.next.inj hrun
  have hrecords : frameRecords (List.replicate n p) s = List.replicate n (pixelRecord m s.bg) :=
    hstart.recordsOf_replicate hm he n
  refine ⟨?pixels, ?bytes, (hstart.afterPixels_replicate he n).buffer⟩
  case pixels => rw [afterFrame_pixels, hrecords]
  case bytes =>
    have hcount : n = s.width.toNat * s.height.toNat := (List.length_replicate).symm.trans h.count
    rw [afterFrame_bytes h, hrecords]
    refine congrArg _ (payloadOf_congr fun y hy x hx => recordBit_replicate m s.bg ?_)
    calc y * s.width.toNat + x < (y + 1) * s.width.toNat := by rw [Nat.succ_mul]; omega
      _ ≤ s.height.toNat * s.width.toNat := Nat.mul_le_mul_right _ hy
      _ = n := by rw [hcount, Nat.mul_comm]

/-- Settles O48: 255 is on and 0 is off, both without an error. -/
theorem uniformDiffuseFrames : Obligations.UniformDiffuseFrames := by
  intro s t n rest hm hd
  refine ⟨fun h ht => ?white, uniformFrame hm hd (by decide) (by decide)⟩
  case white =>
    obtain ⟨hpixels, hbytes, hlb⟩ := uniformFrame hm hd (m := true) (by decide) (by decide) h ht
    exact ⟨hpixels, by rw [hbytes, payloadOf_on], hlb⟩

end Sys2Proof.Machine
end

section
/-! The step and its event (41_frame_control.md R120; 20_memory.md R50, R65): a word is taken and its command run, nothing is
taken where nothing is presented. -/

namespace Sys2Proof.Machine

/-- Settles O7: the step on a word that decodes to a command, whatever the command. -/
theorem stepRunsDecodedCommand : Obligations.StepRunsDecodedCommand := fun _ _ _ _ hi hd => step_command hi hd

/-- Settles O8: one step with nothing presented leaves the state, with nothing presented, to the rest of the run. -/
theorem stepWithNothingPresentedHoldsState : Obligations.StepWithNothingPresentedHoldsState := by
  intro s hi n
  induction n with
  | zero => rfl
  | succ n ih => rw [runSteps_succ, step_of_input_nil hi, afterStep_next, ih]

/-! ### What a step keeps -/

section Keeps
variable {i : Instr} {s t : State}

/-- No command takes an event or writes a parameter (20_memory.md R65; 00_scope.md R6). -/
theorem exec_input_params (h : exec i s = .next t) : t.input = s.input ∧ t.params = s.params := by
  rcases exec_next h with ⟨-, rfl⟩ | ⟨-, -, rfl⟩ | ⟨-, -, e, rfl⟩ | ⟨-, hidle⟩ | ⟨-, -, p, -, rfl⟩
  · exact ⟨rfl, rfl⟩
  · exact ⟨rfl, rfl⟩
  · exact ⟨rfl, rfl⟩
  · rcases hidle with ⟨_, -, rfl⟩ | ⟨_, -, rfl⟩ | ⟨_, -, rfl⟩ | ⟨_, _, _, -, -, rfl⟩ | ⟨-, -, rfl⟩ <;> exact ⟨rfl, rfl⟩
  · exact ⟨pixelStep_input p s, pixelStep_params p s⟩

theorem illegalCommand_input_params (s : State) :
    (illegalCommand s).input = s.input ∧ (illegalCommand s).params = s.params := by
  rcases illegalCommand_cases s with ⟨-, heq⟩ | ⟨-, heq⟩ <;> rw [heq] <;> exact ⟨rfl, rfl⟩

theorem step_input_params (h : step s = .next t) : t.input = s.input.tail ∧ t.params = s.params := by
  rcases step_next h with ⟨hi, rfl⟩ | ⟨rest, hi, rfl⟩ | ⟨w, rest, why, hi, -, rfl⟩ | ⟨w, rest, i, hi, -, hexec⟩
  · exact ⟨by rw [hi]; rfl, rfl⟩
  · exact ⟨by rw [hi]; rfl, rfl⟩
  · rw [hi]
    exact illegalCommand_input_params (withInput rest s)
  · rw [hi]
    exact exec_input_params (s := withInput rest s) hexec

end Keeps

/-- Settles O11: the event is taken before its word is looked at, and nothing after that takes another. -/
theorem stepTakesOneHostEvent : Obligations.StepTakesOneHostEvent := fun _ _ h => (step_input_params h).1

/-- SETM's word with the reserved mode is ILLEGAL (30_encoding.md R85). -/
theorem decode_encode_setm_reserved (bg : Bool) : decode (encode (.setm 3#2 bg)) = .illegal .reservedMode := by
  cases bg <;> decide

/-- Settles O17: the word is ILLEGAL, and the term does what ILLEGAL words do. -/
theorem reservedModeActsAsIllegalWord : Obligations.ReservedModeActsAsIllegalWord := by
  intro bg s rest hi
  rw [step_illegal hi (decode_encode_setm_reserved bg), exec_ill_formed rfl]
  rfl

end Sys2Proof.Machine
end

section
/-! SETT and SETM (40_config_commands.md R113, R114), and the registers after reset (10_state.md R20). -/

namespace Sys2Proof.Machine

/-- Settles O15: the phases are those of every configuration command; in MODE 0 the pixel's bit is the comparator's. -/
theorem settSetsTheCutoff : Obligations.SettSetsTheCutoff := by
  intro v s
  refine ⟨exec_sett_idle v, exec_configuration_run rfl rfl, ?_⟩
  rintro p hp hm rfl
  refine ⟨pixelStep p s, exec_pix_run p hp (bufferReached_undiffused (by simp [hm])), ?_⟩
  rw [pixelStep_pixels, quantize_of_threshold p hm]
  rfl

/-- All eight words of SETM, as CTRL's bits under the opcode. -/
theorem encode_setm_eq_or : ∀ (f : BitVec 2) (bg : Bool),
    encode (.setm f bg) = 0x4000#16 ||| ((BitVec.ofBool bg).setWidth 16 <<< 2) ||| f.setWidth 16 := by decide

/-- Settles O16: a field that is not reserved is the code of a mode, which SETM writes together with BG. -/
theorem setmWritesBothFields : Obligations.SetmWritesBothFields := by
  intro f bg s hf
  obtain ⟨m, rfl⟩ := exists_modeCode_eq hf
  exact ⟨encode_setm_eq_or _ bg, fun hp => ⟨_, exec_setm_idle m bg hp, rfl, rfl⟩,
    exec_configuration_run rfl (bne_iff_ne.mpr hf)⟩

/-- Settles O21: the fields of `State.reset`, and a read of its buffer, which lists nothing. -/
theorem resetRegisterValues : Obligations.ResetRegisterValues :=
  ⟨rfl, rfl, rfl, rfl, rfl, rfl, rfl, rfl, rfl, rfl, rfl, rfl, read_unspecified 0⟩

end Sys2Proof.Machine
end

section
/-! What a command leaves alone: DONE inside a frame and between frames (10_state.md R28), the configuration during a frame
(20_memory.md R68), and what has been emitted (60_exceptions.md R187; 70_reset_and_hazards.md R218). -/

namespace Sys2Proof.Machine

/-- Everything a command can do to DONE: of all that it can answer only `resetAll`, `beginFrame` and the pixel at the
frame's end write it. -/
theorem exec_done {i : Instr} {s t : State} (h : exec i s = .next t) :
    t.done = s.done ∨
    (t.done = true ∧ (∃ p, i = .pix p) ∧ s.ph = .run ∧ atFrameEnd s ∧ t.ph = .idle) ∨
    (t.done = false ∧ (i = .rst ∨ (i = .start ∧ s.ph = .idle ∧ t.ph = .run))) := by
  rcases exec_next h with ⟨hi, rfl⟩ | ⟨-, -, rfl⟩ | ⟨-, -, e, rfl⟩ | ⟨hp, hidle⟩ | ⟨hp, -, p, hi, rfl⟩
  · exact .inr (.inr ⟨rfl, .inl hi⟩)
  · exact .inl rfl
  · exact .inl rfl
  · rcases hidle with ⟨_, -, rfl⟩ | ⟨_, -, rfl⟩ | ⟨_, -, rfl⟩ | ⟨_, _, _, -, -, rfl⟩ | ⟨hi, -, rfl⟩
    · exact .inl rfl
    · exact .inl rfl
    · exact .inl rfl
    · exact .inl rfl
    · exact .inr (.inr ⟨rfl, .inr ⟨hi, hp, rfl⟩⟩)
  · rw [pixelStep_done, pixelStep_ph]
    split
    next hend =>
      obtain ⟨hlast, hbottom⟩ := (Bool.and_eq_true _ _).mp hend
      exact .inr (.inl ⟨rfl, ⟨p, hi⟩, hp, ⟨lastOfRow_iff.mp hlast, lastRow_iff.mp hbottom⟩, rfl⟩)
    next => exact .inl rfl

/-- Settles O42: what raises DONE leaves it 1, and what clears it leaves it 0. -/
theorem doneChangesOnlyAtFrameBounds : Obligations.DoneChangesOnlyAtFrameBounds := by
  intro i s t h
  constructor
  · intro hs ht
    rcases exec_done h with hsame | ⟨-, hpix⟩ | ⟨hfall, -⟩
    · cases (hsame.trans hs).symm.trans ht
    · exact hpix
    · cases hfall.symm.trans ht
  · intro hs ht
    rcases exec_done h with hsame | ⟨hrise, -⟩ | ⟨-, hbound⟩
    · cases (hsame.trans hs).symm.trans ht
    · cases hrise.symm.trans ht
    · exact hbound

/-- Settles O43: in RUN a command other than RST raises a fault or is a PIX; no step writes a parameter. -/
theorem configurationConstantInFrame : Obligations.ConfigurationConstantInFrame := by
  refine ⟨fun i s t hp hi h => ?_, fun s t h => (step_input_params h).2⟩
  rcases exec_next h with ⟨hrst, -⟩ | ⟨-, herr, -⟩ | ⟨-, -, e, rfl⟩ | ⟨hidle, -⟩ | ⟨-, -, p, -, rfl⟩
  · exact absurd hrst hi
  · cases hp.symm.trans herr
  · exact ⟨rfl, rfl, rfl, rfl⟩
  · cases hp.symm.trans hidle
  · exact ⟨pixelStep_width p s, pixelStep_height p s, pixelStep_thresh p s, by
      rw [ctrl, pixelStep_mode, pixelStep_bg, ctrl]⟩

/-! ### Emissions -/

/-- The emissions of `t` are those of `s` and more. -/
def EmissionsExtend (s t : State) : Prop := s.bytes <+: t.bytes ∧ s.pixels <+: t.pixels

section EmissionsExtend
variable {i : Instr} {s t u : State}

theorem emissionsExtend_of_nothing (h : nothingEmitted s t) : EmissionsExtend s t :=
  ⟨⟨[], by rw [h.1, List.append_nil]⟩, ⟨[], by rw [h.2, List.append_nil]⟩⟩

theorem EmissionsExtend.trans (h : EmissionsExtend s t) (h' : EmissionsExtend t u) : EmissionsExtend s u :=
  ⟨h.1.trans h'.1, h.2.trans h'.2⟩

theorem exec_emissionsExtend (h : exec i s = .next t) : EmissionsExtend s t := by
  rcases exec_emissions h with hnone | ⟨rfl, hidle⟩ | ⟨⟨p, rfl⟩, hp⟩
  · exact emissionsExtend_of_nothing hnone
  · by_cases hrun : t.ph = .run
    · obtain ⟨hbytes, hpixels⟩ := (start_emissions h).1 ⟨hrun, hidle⟩
      exact ⟨⟨_, hbytes.symm⟩, ⟨[], by rw [hpixels, List.append_nil]⟩⟩
    · exact emissionsExtend_of_nothing ((start_emissions h).2 hrun)
  · obtain rfl := exec_pix_run_eq hp h
    exact ⟨⟨_, (pixelStep_bytes p s).symm⟩, ⟨_, (pixelStep_pixels p s).symm⟩⟩

theorem step_emissionsExtend (h : step s = .next t) : EmissionsExtend s t := by
  rcases step_next h with ⟨-, rfl⟩ | ⟨rest, -, rfl⟩ | ⟨w, rest, why, -, -, rfl⟩ | ⟨w, rest, i, -, -, hexec⟩
  · exact emissionsExtend_of_nothing (nothingEmitted_refl t)
  · exact emissionsExtend_of_nothing ⟨rfl, rfl⟩
  · refine emissionsExtend_of_nothing ?_
    rcases illegalCommand_cases { s with input := rest } with ⟨-, heq⟩ | ⟨-, heq⟩ <;> rw [heq] <;> exact ⟨rfl, rfl⟩
  · exact exec_emissionsExtend (s := withInput rest s) hexec

end EmissionsExtend

/-- Settles O38: every step extends the emissions, so they extend those of any earlier state. -/
theorem emissionsAreNeverRetracted : Obligations.EmissionsAreNeverRetracted := by
  intro n s t h
  exact runSteps_keeps (P := EmissionsExtend s) (fun _ _ hs hstep => hs.trans (step_emissionsExtend hstep))
    (emissionsExtend_of_nothing (nothingEmitted_refl s)) h

end Sys2Proof.Machine
end

section
/-! The assembler (30_encoding.md R86): the words it emits are legal, and an operand out of range is an error wherever it
stands. -/

namespace Sys2Proof.Machine

/-! ### Legal words -/

/-- Where a part of the assembler answers words, each decodes to a well-formed command. -/
def EmitsLegal (part : Option (List Word)) : Prop :=
  ∀ ws, part = some ws → ∀ w ∈ ws, ∃ i : Instr, i.wellFormed = true ∧ decode w = .command i

theorem emitsLegal_encode {i : Instr} (hwf : i.wellFormed = true) : EmitsLegal (some [encode i]) := by
  rintro _ ⟨⟩ w hw
  obtain rfl := List.mem_singleton.mp hw
  exact ⟨i, hwf, decodeInvertsEncode i hwf⟩

theorem emitsLegal_wordIf {inRange : Bool} {i : Instr} (hwf : inRange = true → i.wellFormed = true) :
    EmitsLegal (wordIf inRange i) := by
  intro ws h
  obtain ⟨hin, rfl⟩ := wordIf_eq_some.mp h
  exact emitsLegal_encode (hwf hin) _ rfl

theorem emitsLegal_joinWords {parts : List (Option (List Word))} (hparts : ∀ part ∈ parts, EmitsLegal part) :
    EmitsLegal (joinWords parts) := by
  intro ws h w hw
  obtain ⟨wss, rfl, rfl⟩ := joinWords_eq_some.mp h
  obtain ⟨vs, hvs, hw⟩ := List.mem_flatten.mp hw
  exact hparts (some vs) (List.mem_map_of_mem hvs) vs rfl w hw

theorem emitsLegal_asmSetm (mode bg : Nat) : EmitsLegal (asmSetm mode bg) := by
  refine emitsLegal_wordIf fun hin => ?_
  simp only [Bool.and_eq_true, decide_eq_true_eq] at hin
  have hmode : BitVec.ofNat 2 mode ≠ 3#2 := by bv_omega
  exact bne_iff_ne.mpr hmode

theorem emitsLegal_asmPix (n : Nat) : EmitsLegal (asmPix n) := emitsLegal_wordIf fun _ => rfl

theorem emitsLegal_asmConfig (w h t mode bg : Nat) : EmitsLegal (asmConfig w h t mode bg) := by
  refine emitsLegal_joinWords fun part hpart => ?_
  simp only [List.mem_cons, List.not_mem_nil, or_false] at hpart
  rcases hpart with rfl | rfl | rfl | rfl
  · exact emitsLegal_wordIf fun _ => rfl
  · exact emitsLegal_wordIf fun _ => rfl
  · exact emitsLegal_wordIf fun _ => rfl
  · exact emitsLegal_asmSetm mode bg

theorem emitsLegal_pixels (pixels : List Nat) : EmitsLegal (joinWords (pixels.map asmPix)) := by
  refine emitsLegal_joinWords fun part hpart => ?_
  obtain ⟨n, -, rfl⟩ := List.mem_map.mp hpart
  exact emitsLegal_asmPix n

theorem emitsLegal_asmFill (n p : Nat) : EmitsLegal (asmFill n p) := by
  intro ws h w hw
  obtain ⟨vs, hvs, rfl⟩ := Option.map_eq_some_iff.mp h
  obtain ⟨us, hus, hmem⟩ := List.mem_flatten.mp hw
  obtain rfl := List.eq_of_mem_replicate hus
  exact emitsLegal_asmPix p us hvs w hmem

theorem emitsLegal_none : EmitsLegal none := fun _ h => by cases h

theorem emitsLegal_asmRow (pixels : List Nat) : EmitsLegal (asmRow pixels) := by
  unfold asmRow
  split
  · exact emitsLegal_none
  · exact emitsLegal_pixels pixels

theorem emitsLegal_asmFrame (w h t mode bg : Nat) (pixels : List Nat) :
    EmitsLegal (asmFrame w h t mode bg pixels) := by
  unfold asmFrame
  split
  · refine emitsLegal_joinWords fun part hpart => ?_
    simp only [List.mem_cons, List.not_mem_nil, or_false] at hpart
    rcases hpart with rfl | rfl | rfl
    · exact emitsLegal_asmConfig w h t mode bg
    · exact emitsLegal_encode rfl
    · exact emitsLegal_pixels pixels
  · exact emitsLegal_none

/-- `.word` is the one way to write an ILLEGAL word. -/
theorem emitsLegal_assembleLine {l : AsmLine} (hl : ∀ n, l ≠ .word n) : EmitsLegal (assembleLine l) := by
  cases l with
  | setw n | seth n | sett n => exact emitsLegal_wordIf fun _ => rfl
  | setm mode bg => exact emitsLegal_asmSetm mode bg
  | start | rst => exact emitsLegal_encode rfl
  | pix n => exact emitsLegal_asmPix n
  | word n => exact absurd rfl (hl n)
  | config w h t mode bg => exact emitsLegal_asmConfig w h t mode bg
  | row pixels => exact emitsLegal_asmRow pixels
  | fill n p => exact emitsLegal_asmFill n p
  | frame w h t mode bg pixels => exact emitsLegal_asmFrame w h t mode bg pixels

/-! ### Operands out of range -/

section OutOfRange
variable {w h t mode bg n p : Nat} {pixels : List Nat}

theorem wordIf_above {bound : Nat} (hn : bound < n) (i : Instr) : wordIf (decide (n ≤ bound)) i = none :=
  wordIf_eq_none.mpr (decide_eq_false (Nat.not_le.mpr hn))

theorem asmSetm_out_of_range (hout : 2 < mode ∨ 1 < bg) : asmSetm mode bg = none := by
  refine wordIf_eq_none.mpr (Bool.and_eq_false_iff.mpr ?_)
  exact hout.imp (fun hm => decide_eq_false (Nat.not_le.mpr hm)) (fun hb => decide_eq_false (Nat.not_le.mpr hb))

theorem asmConfig_out_of_range (hout : 4095 < w ∨ 4095 < h ∨ 255 < t ∨ 2 < mode ∨ 1 < bg) :
    asmConfig w h t mode bg = none := by
  refine joinWords_eq_none ?_
  rcases hout with hw | hh | ht | hctrl
  · rw [asmSetw, wordIf_above hw]; simp
  · rw [asmSeth, wordIf_above hh]; simp
  · rw [asmSett, wordIf_above ht]; simp
  · rw [asmSetm_out_of_range hctrl]; simp

theorem pixels_out_of_range (hp : 255 < p) (hmem : p ∈ pixels) : joinWords (pixels.map asmPix) = none :=
  joinWords_eq_none (List.mem_map.mpr ⟨p, hmem, wordIf_above hp _⟩)

theorem asmRow_out_of_range (hp : 255 < p) (hmem : p ∈ pixels) : asmRow pixels = none := by
  rw [asmRow, pixels_out_of_range hp hmem, ite_self]

/-- A FRAME is in error where its CONFIG or its pixels are, whatever their number. -/
theorem asmFrame_out_of_range (hout : asmConfig w h t mode bg = none ∨ joinWords (pixels.map asmPix) = none) :
    asmFrame w h t mode bg pixels = none := by
  have hjoin : joinWords [asmConfig w h t mode bg, some [encode .start], joinWords (pixels.map asmPix)] = none := by
    refine joinWords_eq_none ?_
    rcases hout with hconfig | hpixels
    · rw [hconfig]; simp
    · rw [hpixels]; simp
  rw [asmFrame, hjoin, ite_self]

end OutOfRange

/-- Settles O57: legal words by the parts each form is joined from; the words of operands in range as for the
pseudo-instructions; one operand out of range makes its part an error, and a part in error the whole line. -/
theorem assemblerEmitsLegalWords : Obligations.AssemblerEmitsLegalWords := by
  refine ⟨fun l ws hl h => emitsLegal_assembleLine hl ws h, fun n hn => if_pos hn,
    fun n => ⟨asmSetw_toNat n, asmSeth_toNat n⟩, fun n => ⟨asmSett_toNat n, asmPix_toNat n⟩,
    fun mode bg hm => asmSetm_toNat bg hm, rfl, rfl, fun n hn => ⟨wordIf_above hn _, wordIf_above hn _⟩,
    fun n hn => ⟨wordIf_above hn _, wordIf_above hn _⟩, fun mode bg hout => asmSetm_out_of_range hout,
    fun w h t mode bg hout => ?config, fun p hp => ?pixels⟩
  case config =>
    have hconfig := asmConfig_out_of_range hout
    exact ⟨hconfig, fun pixels => asmFrame_out_of_range (.inl hconfig)⟩
  case pixels =>
    refine ⟨fun n => ?_, fun pixels hmem => ⟨asmRow_out_of_range hp hmem, fun w h t mode bg => ?_⟩⟩
    · exact congrArg (Option.map _) (wordIf_above hp _)
    · exact asmFrame_out_of_range (.inr (pixels_out_of_range hp hmem))

end Sys2Proof.Machine
end
